-- ==== Sys2Proof/Word.lean ====
section
/-! DEFINITION. The machine word (spec rules R8, R21): 32 bits with no type of its own, and the bytes a word is
made of. -/

namespace Sys2Proof

/-- A byte of the host window (rule R65). -/
abbrev Byte := BitVec 8

/-- A 32-bit register, memory entry or value of the number format F (rules R9, R21). -/
abbrev Word := BitVec 32

/-- A four-bit field of a command word (rule R86). -/
abbrev Nibble := BitVec 4

/-- `u32(v)` of rule R8: an integer modulo 2^32. -/
def u32 (v : Int) : Word := BitVec.ofInt 32 v

/-- `s32(v)` of rule R8: a 32-bit pattern read as two's complement. -/
def s32 (v : Word) : Int := v.toInt

end Sys2Proof
end

