-- ==== Sys2Proof/Syntax.lean ====
section
/-! DEFINITION. The commands of RS-CORE (rule R91): one constructor per row of spec/opcode_table.json, with the
selector and flag fields of its format (rules R86 to R89) as they stand in the command word. -/

namespace Sys2Proof

/-- A command. Selector fields are raw nibbles; `Instr.wellFormed` holds the legal ones. -/
inductive Instr where
  /-- 0x00 NOP, rule R231. -/
  | nop
  /-- 0x01 INIT, rules R232 to R234. -/
  | init
  /-- 0x02 SRESET, rule R235. -/
  | sreset
  /-- 0x10 FFT_R, rule R104. -/
  | fftR (dst : Nibble)
  /-- 0x11 FFT_C, rule R105. -/
  | fftC (dst src : Nibble)
  /-- 0x12 IFFT_N, rule R106. -/
  | ifftN (dst src : Nibble)
  /-- 0x13 WIN_R, rule R108. -/
  | winR (wsel : Nibble)
  /-- 0x14 WIN_C, rule R109. -/
  | winC (dst wsel : Nibble)
  /-- 0x15 CMUL, rule R110. -/
  | cmul (dst src : Nibble)
  /-- 0x20 LP_DESIGN, rule R122. -/
  | lpDesign (bank : Nibble)
  /-- 0x21 LP_APPLY, rule R127. -/
  | lpApply (bank : Nibble)
  /-- 0x30 RD_SAMPLE, rule R144. -/
  | rdSample
  /-- 0x31 RD_CSAMPLE, rule R147. -/
  | rdCsample
  /-- 0x40 DEMOD_STEP, rule R161. -/
  | demodStep
  /-- 0x50 CORR_STEP, rule R186. -/
  | corrStep
  /-- 0x51 HEADCMP, rule R198. -/
  | headcmp
  /-- 0x52 FIND_HDR, rule R202. -/
  | findHdr
  /-- 0x60 RD_HBIT, rule R216. -/
  | rdHbit (flags : Nibble)
  /-- 0x61 RD_SBIT, rule R217. -/
  | rdSbit (flags : Nibble)
deriving DecidableEq, Repr

end Sys2Proof
end

