-- ==== Sys2Proof/WellFormed.lean ====
section
/-! DEFINITION. Which selector values a command may hold (rule R88): the reserved ones make a command illegal. -/

namespace Sys2Proof

/-- A buffer selector: 0 = X, 1 = Z, 2 = CX; 3 to 15 reserved. -/
def bufferSelectorOk (sel : Nibble) : Bool := decide (sel.toNat < 3)

/-- A window selector: 0 boxcar, 1 Hann, 2 Hamming, 3 Blackman; 4 to 15 reserved. -/
def windowSelectorOk (sel : Nibble) : Bool := decide (sel.toNat < 4)

/-- A coefficient bank: 0 DECIM, 1 IQ_ACQ, 2 IQ_LOCK, 3 FM; 4 to 15 reserved. -/
def bankSelectorOk (sel : Nibble) : Bool := decide (sel.toNat < 4)

/-- Every selector field of the command holds a value that is not reserved. -/
def Instr.wellFormed : Instr → Bool
  | .nop => true
  | .init => true
  | .sreset => true
  | .fftR dst => bufferSelectorOk dst
  | .fftC dst src => bufferSelectorOk dst && bufferSelectorOk src
  | .ifftN dst src => bufferSelectorOk dst && bufferSelectorOk src
  | .winR wsel => windowSelectorOk wsel
  | .winC dst wsel => bufferSelectorOk dst && windowSelectorOk wsel
  | .cmul dst src => bufferSelectorOk dst && bufferSelectorOk src
  | .lpDesign bank => bankSelectorOk bank
  | .lpApply bank => bankSelectorOk bank
  | .rdSample => true
  | .rdCsample => true
  | .demodStep => true
  | .corrStep => true
  | .headcmp => true
  | .findHdr => true
  | .rdHbit _ => true
  | .rdSbit _ => true

end Sys2Proof
end

