-- ==== Sys2Proof/Decode.lean ====
section
/-! DEFINITION. Decoding a command word, total on all 2^32 words and rejecting by name, and encoding (rules R86 to
R92). -/

namespace Sys2Proof

/-- Why a word is no command (rule R92). -/
inductive DecodeError where
  /-- Its OPC is not one of the nineteen of rule R91. -/
  | unknownOpcode
  /-- A bit that its format leaves undefined is 1. -/
  | reservedBit
  /-- A selector field holds a reserved value. -/
  | reservedSelector
deriving DecidableEq, Repr

/-- The fields of rule R86 put together: OPC, twelve zeros, WSEL, SRC, DST. -/
def assemble (opc : BitVec 8) (wsel src dst : Nibble) : Word :=
  opc ++ (0#12 ++ (wsel ++ (src ++ dst)))

/-- OPC, bits 31:24. -/
def opcField (w : Word) : BitVec 8 := w.extractLsb' 24 8

/-- Bits 23:12, reserved in every format. -/
def reservedField (w : Word) : BitVec 12 := w.extractLsb' 12 12

/-- WSEL, bits 11:8. -/
def wselField (w : Word) : Nibble := w.extractLsb' 8 4

/-- SRC, bits 7:4. -/
def srcField (w : Word) : Nibble := w.extractLsb' 4 4

/-- DST, BANK or FLAGS, bits 3:0. -/
def dstField (w : Word) : Nibble := w.extractLsb' 0 4

/-- The operation code of a command (rule R91). -/
def Instr.opcode : Instr → BitVec 8
  | .nop => 0x00#8
  | .init => 0x01#8
  | .sreset => 0x02#8
  | .fftR _ => 0x10#8
  | .fftC _ _ => 0x11#8
  | .ifftN _ _ => 0x12#8
  | .winR _ => 0x13#8
  | .winC _ _ => 0x14#8
  | .cmul _ _ => 0x15#8
  | .lpDesign _ => 0x20#8
  | .lpApply _ => 0x21#8
  | .rdSample => 0x30#8
  | .rdCsample => 0x31#8
  | .demodStep => 0x40#8
  | .corrStep => 0x50#8
  | .headcmp => 0x51#8
  | .findHdr => 0x52#8
  | .rdHbit _ => 0x60#8
  | .rdSbit _ => 0x61#8

/-- The command that an OPC and the three nibbles stand for, before any check of reserved bits and selectors;
`none` for a reserved OPC (rule R92). -/
def candidate (opc : BitVec 8) (wsel src dst : Nibble) : Option Instr :=
  match opc.toNat with
  | 0x00 => some .nop
  | 0x01 => some .init
  | 0x02 => some .sreset
  | 0x10 => some (.fftR dst)
  | 0x11 => some (.fftC dst src)
  | 0x12 => some (.ifftN dst src)
  | 0x13 => some (.winR wsel)
  | 0x14 => some (.winC dst wsel)
  | 0x15 => some (.cmul dst src)
  | 0x20 => some (.lpDesign dst)
  | 0x21 => some (.lpApply dst)
  | 0x30 => some .rdSample
  | 0x31 => some .rdCsample
  | 0x40 => some .demodStep
  | 0x50 => some .corrStep
  | 0x51 => some .headcmp
  | 0x52 => some .findHdr
  | 0x60 => some (.rdHbit dst)
  | 0x61 => some (.rdSbit dst)
  | _ => none

/-- Bits of the three nibbles that the command's format defines (rule R87): WSEL, SRC, DST. -/
def Instr.definedNibbles : Instr → Bool × Bool × Bool
  | .nop => (false, false, false)
  | .init => (false, false, false)
  | .sreset => (false, false, false)
  | .fftR _ => (false, false, true)
  | .fftC _ _ => (false, true, true)
  | .ifftN _ _ => (false, true, true)
  | .winR _ => (true, false, false)
  | .winC _ _ => (true, false, true)
  | .cmul _ _ => (false, true, true)
  | .lpDesign _ => (false, false, true)
  | .lpApply _ => (false, false, true)
  | .rdSample => (false, false, false)
  | .rdCsample => (false, false, false)
  | .demodStep => (false, false, false)
  | .corrStep => (false, false, false)
  | .headcmp => (false, false, false)
  | .findHdr => (false, false, false)
  | .rdHbit _ => (false, false, true)
  | .rdSbit _ => (false, false, true)

/-- Every bit of the word that the format of `i` leaves undefined is 0 (rules R86, R87). -/
def undefinedBitsClear (i : Instr) (w : Word) : Bool :=
  decide (reservedField w = 0#12)
    && (i.definedNibbles.1 || decide (wselField w = 0#4))
    && (i.definedNibbles.2.1 || decide (srcField w = 0#4))
    && (i.definedNibbles.2.2 || decide (dstField w = 0#4))

/-- The command a word stands for, or why it is illegal (rules R91, R92). -/
def decode (w : Word) : Except DecodeError Instr :=
  match candidate (opcField w) (wselField w) (srcField w) (dstField w) with
  | none => .error .unknownOpcode
  | some i =>
    if undefinedBitsClear i w = false then .error .reservedBit
    else if i.wellFormed = false then .error .reservedSelector
    else .ok i

/-- The word of a command (rules R86, R87, R91). -/
def encode : Instr → Word
  | .nop => assemble 0x00#8 0#4 0#4 0#4
  | .init => assemble 0x01#8 0#4 0#4 0#4
  | .sreset => assemble 0x02#8 0#4 0#4 0#4
  | .fftR dst => assemble 0x10#8 0#4 0#4 dst
  | .fftC dst src => assemble 0x11#8 0#4 src dst
  | .ifftN dst src => assemble 0x12#8 0#4 src dst
  | .winR wsel => assemble 0x13#8 wsel 0#4 0#4
  | .winC dst wsel => assemble 0x14#8 wsel 0#4 dst
  | .cmul dst src => assemble 0x15#8 0#4 src dst
  | .lpDesign bank => assemble 0x20#8 0#4 0#4 bank
  | .lpApply bank => assemble 0x21#8 0#4 0#4 bank
  | .rdSample => assemble 0x30#8 0#4 0#4 0#4
  | .rdCsample => assemble 0x31#8 0#4 0#4 0#4
  | .demodStep => assemble 0x40#8 0#4 0#4 0#4
  | .corrStep => assemble 0x50#8 0#4 0#4 0#4
  | .headcmp => assemble 0x51#8 0#4 0#4 0#4
  | .findHdr => assemble 0x52#8 0#4 0#4 0#4
  | .rdHbit flags => assemble 0x60#8 0#4 0#4 flags
  | .rdSbit flags => assemble 0x61#8 0#4 0#4 flags

/-- The four bytes of a word in the window's byte order, lowest address first (rule R65: little-endian). -/
def wordBytes (w : Word) : List Byte :=
  [w.extractLsb' 0 8, w.extractLsb' 8 8, w.extractLsb' 16 8, w.extractLsb' 24 8]

/-- The word that four bytes in the window's byte order make (rule R65). -/
def bytesWord (b0 b1 b2 b3 : Byte) : Word := b3 ++ (b2 ++ (b1 ++ b0))

/-- The command that stands in the first four bytes, with the bytes after it; a command is one 32-bit word (rule
R85), so fewer bytes hold none. -/
def decodeBytes : List Byte → Except DecodeError (Instr × List Byte)
  | b0 :: b1 :: b2 :: b3 :: rest => (decode (bytesWord b0 b1 b2 b3)).map (fun i => (i, rest))
  | _ => .error .unknownOpcode

/-- The command the decoder reads from an instruction whose low `nbits` bits are `w`, every higher bit being 0. -/
def decodeTableWord (nbits w : Nat) : Option Instr :=
  match decodeBytes (wordBytes (BitVec.ofNat 32 (w % 2 ^ nbits))) with
  | .ok (i, _) => some i
  | .error _ => none

end Sys2Proof
end

