-- ==== Sys2Proof/Config.lean ====
section
/-! DEFINITION. What an instance of RS-CORE fixes (rules R5, R6, 93_implementation_defined.md section 2) and the
values the spec leaves open (93_implementation_defined.md section 1), the latter as constants without a body. -/

namespace Sys2Proof.Config

/-- The numeric configuration `NUM` (rules R5, R13): the default takes the reference (correctly rounded)
`ATAN2PI` and `CIS`; any other instance has functions of which only the exact points of rule R13 are known. -/
inductive Num where
  | reference
  | other (id : Nat)
deriving DecidableEq, Repr

/-- The implementation parameters of rule R5 and the named constants of rule R6. -/
structure Params where
  /-- log2 of the largest transform size and circular-buffer length. -/
  log2nMax : Nat
  /-- Capacity of HDR. -/
  hdrMax : Nat
  /-- Capacity of a filter delay line. -/
  tapsMax : Nat
  /-- Capacity of ROT. -/
  rotMax : Nat
  /-- Platform address of the host window (rule R61). -/
  base : Nat
  /-- The numeric configuration. -/
  num : Num
  /-- Spike suppressor threshold, a value of F (rule R214). -/
  spikeThs : Word
  /-- Spike suppressor damping factor, a value of F (rule R214). -/
  spikeScale : Word
  /-- Discriminator gain, a value of F. -/
  gain : Word
  /-- Lock threshold in Hz, a value of F. -/
  fLock : Word
  /-- No-signal window in seconds of samples. -/
  tNosig : Nat
  /-- Divisor of the first IQ DC window. -/
  iqdcDiv : Nat
deriving DecidableEq, Repr

/-- `N_MAX` of rule R5. -/
def Params.nMax (p : Params) : Nat := 2 ^ p.log2nMax

/-- The example capacities of rule R5 with the default constants of rules R5, R6 and R13. -/
def Params.default : Params where
  log2nMax := 14
  hdrMax := 256
  tapsMax := 1023
  rotMax := 65536
  base := 0
  num := .reference
  spikeThs := 0x3F000000#32
  spikeScale := 0x3E8A3D71#32
  gain := 0x3F4CCCCD#32
  fLock := 0x447A0000#32
  tNosig := 10
  iqdcDiv := 32

/-- The constraints of rules R5 and R61 on the parameters; a SPIKE_THS ≥ 0 is no NaN and not below 0. That IQDC_DIV is at
least 1 is the model's: no rule constrains it, and SR/0 has no value. DESIGN CHOICE: log entry 26. -/
def Params.legal (p : Params) : Bool :=
  decide (1 ≤ p.log2nMax ∧ p.log2nMax ≤ 20)
    && decide (1 ≤ p.hdrMax ∧ p.hdrMax ≤ 2 ^ 22)
    && decide (p.tapsMax % 2 = 1 ∧ p.tapsMax < 2 ^ 19)
    && decide (1 ≤ p.rotMax ∧ p.rotMax ≤ 2 ^ 20)
    && decide (p.base % 2 ^ 28 = 0)
    && decide (p.spikeThs.toNat ≤ 0x7F800000 ∨ p.spikeThs = 0x80000000#32)
    && decide (1 ≤ p.iqdcDiv)

/-- U1: what a read of a memory word not written since reset returns; by free-value counter, memory and word
index. -/
opaque freeWord : Nat → Nat → Nat → Word

/-- U2: the data a faulting HOST read returns; by free-value counter. -/
opaque faultingRead : Nat → Word

/-- U3: which NaN an operation of F returns; by operation and operands. Only its sign and fraction bits are
used. -/
opaque nanPayload : Nat → Word → Word → Word

/-- `ATAN2PI` of an instance that does not take the reference value; by instance and operands `(y, x)`. -/
opaque atan2pi : Nat → Word → Word → Word

/-- `CIS` of an instance that does not take the reference value; by instance and the turn as a reduced fraction in
[0, 1), numerator first. -/
opaque cis : Nat → Nat → Nat → Word × Word

/-- The sign of the zero to which a nonzero real too small for F is rounded (rule R12 states none); by the table or
function and its arguments. -/
opaque tinyZeroNegative : List Nat → Bool

/-- A table entry whose rounding the enclosures of Machine/Reals.lean leave undecided at every precision; by the
table and its arguments. -/
opaque undecidedEntry : List Nat → Word

/-- Frames of an endless SOURCE after the listed ones (rule R140); by position. -/
opaque laterFrame : Nat → Word × Word

end Sys2Proof.Config
end

