-- ==== Sys2Proof/Machine/Float.lean ====
section
/-! DEFINITION. The number format F, IEEE 754 binary32 (rules R9 to R12): its operations, each the correctly rounded
result (nearest, ties to even) of the exact one. A finite value is an integer number of units, a unit being 2^-149, the
smallest positive value of F. -/

namespace Sys2Proof.Machine

/-- The value +0. -/
def fzero : Word := 0x00000000#32
/-- The value -0. -/
def fnegZero : Word := 0x80000000#32
/-- The value 1.0. -/
def fone : Word := 0x3F800000#32
/-- The value 0.5. -/
def fhalf : Word := 0x3F000000#32
/-- The value 2.0. -/
def ftwo : Word := 0x40000000#32
/-- The magnitude bits of infinity. -/
def infMag : Nat := 0x7F800000

/-- The sign bit, bit 31. -/
def fsign (a : Word) : Bool := decide (2 ^ 31 ≤ a.toNat)

/-- Bits 30:0, exponent and fraction. -/
def fmag (a : Word) : Nat := a.toNat % 2 ^ 31

/-- The value is a NaN. -/
def isNaN (a : Word) : Bool := decide (infMag < fmag a)

/-- The value is an infinity. -/
def isInf (a : Word) : Bool := decide (fmag a = infMag)

/-- The value is finite. -/
def isFinite (a : Word) : Bool := decide (fmag a < infMag)

/-- The value is +0 or -0. -/
def isZero (a : Word) : Bool := decide (fmag a = 0)

/-- The bits with a given sign and magnitude. -/
def pack (neg : Bool) (mag : Nat) : Word := BitVec.ofNat 32 (mag + if neg then 2 ^ 31 else 0)

/-- The magnitude in units of the finite value whose bits 30:0 are `m`: subnormal, or normal with its implicit bit. -/
def magUnits (m : Nat) : Nat :=
  if m / 2 ^ 23 = 0 then m else (m % 2 ^ 23 + 2 ^ 23) * 2 ^ (m / 2 ^ 23 - 1)

/-- The units of a finite value, with its sign. -/
def units (a : Word) : Int := if fsign a then -(magUnits (fmag a) : Int) else (magUnits (fmag a) : Int)

/-- The exponent step at which a magnitude of `q` whole units is rounded: 24 significant bits, or fewer below 2^24
units. -/
def roundShift (q : Nat) : Nat := if q < 2 ^ 24 then 0 else Nat.log2 q - 23

/-- `num/den` rounded to an integer, to nearest with ties to even. -/
def roundHalfEven (num den : Nat) : Nat :=
  let m := num / den
  let r := num % den
  if den < 2 * r ∨ (den = 2 * r ∧ m % 2 = 1) then m + 1 else m

/-- Bits 30:0 of the value of F nearest to `num/den` units, ties to even; infinity beyond the largest finite value
(rule R12). -/
def roundMag (num den : Nat) : Nat :=
  let e := roundShift (num / den)
  min infMag (e * 2 ^ 23 + roundHalfEven num (den * 2 ^ e))

/-- `rnd_F` of a rational number of units, whose sign is `neg` also when it rounds to zero. -/
def roundUnits (neg : Bool) (num den : Nat) : Word := pack neg (roundMag num den)

/-- Which operation made a NaN: an argument of the free value `Config.nanPayload`. -/
inductive FOp where
  | add | sub | mul | div | sqrt | angle
deriving DecidableEq, Repr

/-- The number by which `Config.nanPayload` knows an operation. -/
def FOp.id : FOp → Nat
  | .add => 0
  | .sub => 1
  | .mul => 2
  | .div => 3
  | .sqrt => 4
  | .angle => 5

/-- The NaN an operation returns (U3): some NaN, its sign and payload free. -/
def nanOf (op : FOp) (a b : Word) : Word :=
  let p := Config.nanPayload op.id a b
  let fraction := p.toNat % 2 ^ 23
  pack (fsign p) (infMag + if fraction = 0 then 2 ^ 22 else fraction)

/-- `fneg`: the sign bit flipped (rule R10). -/
def fneg (a : Word) : Word := a ^^^ 0x80000000#32

/-- `fabs`: the sign bit cleared (rule R10). -/
def fabs (a : Word) : Word := a &&& 0x7FFFFFFF#32

/-- An exact sum of `n` units whose operands had the given signs, rounded: an exact zero is +0 unless both operands
are negative. -/
def roundSum (signA signB : Bool) (n : Int) : Word :=
  if n = 0 then pack (signA && signB) 0 else roundUnits (decide (n < 0)) n.natAbs 1

/-- The sum of two values, `op` naming the operation that asks for it. -/
def addAs (op : FOp) (a b a' b' : Word) : Word :=
  if isNaN a || isNaN b then nanOf op a' b'
  else if isInf a then (if isInf b && fsign a != fsign b then nanOf op a' b' else a)
  else if isInf b then b
  else roundSum (fsign a) (fsign b) (units a + units b)

/-- `fadd` (rule R10). -/
def fadd (a b : Word) : Word := addAs .add a b a b

/-- `fsub` (rule R10): the sum with the second operand's sign flipped. -/
def fsub (a b : Word) : Word := addAs .sub a (fneg b) a b

/-- `fmul` (rule R10). -/
def fmul (a b : Word) : Word :=
  let neg := fsign a != fsign b
  if isNaN a || isNaN b then nanOf .mul a b
  else if isInf a then (if isZero b then nanOf .mul a b else pack neg infMag)
  else if isInf b then (if isZero a then nanOf .mul a b else pack neg infMag)
  else roundUnits neg (magUnits (fmag a) * magUnits (fmag b)) (2 ^ 149)

/-- `fdiv` (rule R10). -/
def fdiv (a b : Word) : Word :=
  let neg := fsign a != fsign b
  if isNaN a || isNaN b then nanOf .div a b
  else if isInf a then (if isInf b then nanOf .div a b else pack neg infMag)
  else if isInf b then pack neg 0
  else if isZero b then (if isZero a then nanOf .div a b else pack neg infMag)
  else roundUnits neg (magUnits (fmag a) * 2 ^ 149) (magUnits (fmag b))

/-- One digit of the square root: bit `k` is set if the square still fits. -/
def sqrtBit (n k r : Nat) : Nat := if (r + 2 ^ k) * (r + 2 ^ k) ≤ n then r + 2 ^ k else r

/-- The binary digits of the square root of `n` below bit `k`, added to `r`. -/
def sqrtDigits (n : Nat) : Nat → Nat → Nat
  | 0, r => r
  | k + 1, r => sqrtDigits n k (sqrtBit n k r)

/-- The whole part of the square root. -/
def natSqrt (n : Nat) : Nat := sqrtDigits n (Nat.log2 n / 2 + 1) 0

/-- `fsqrt` (rule R10). The square root of `u` units is that of `u·2^149`; it is found to half a unit, and half of
that again stands for a remainder. -/
def fsqrt (a : Word) : Word :=
  if isNaN a then nanOf .sqrt a a
  else if isZero a then a
  else if fsign a then nanOf .sqrt a a
  else if isInf a then a
  else
    let n := magUnits (fmag a) * 2 ^ 151
    let r := natSqrt n
    roundUnits false (if r * r = n then 2 * r else 2 * r + 1) 4

/-- `i2f` (rule R10). -/
def i2f (n : Int) : Word := roundUnits (decide (n < 0)) (n.natAbs * 2 ^ 149) 1

/-- The value of a non-NaN as an integer in order of size; both zeros give 0. -/
def forder (a : Word) : Int := if fsign a then -(fmag a : Int) else (fmag a : Int)

/-- `a < b` (rule R10): false if an operand is a NaN. -/
def flt (a b : Word) : Bool := !isNaN a && !isNaN b && decide (forder a < forder b)

/-- `a ≤ b` (rule R10), that is `b ≥ a`: false if an operand is a NaN. -/
def fle (a b : Word) : Bool := !isNaN a && !isNaN b && decide (forder a ≤ forder b)

/-- `a > b` (rule R10). -/
def fgt (a b : Word) : Bool := flt b a

/-- `a ≥ b` (rule R10). -/
def fge (a b : Word) : Bool := fle b a

/-- A complex value of F (rule R9). -/
structure Cx where
  re : Word
  im : Word
deriving DecidableEq, Repr

/-- The complex zero `(+0, +0)`. -/
def czero : Cx := ⟨fzero, fzero⟩

/-- `cadd` (rule R11). -/
def cadd (a b : Cx) : Cx := ⟨fadd a.re b.re, fadd a.im b.im⟩

/-- `csub` (rule R11). -/
def csub (a b : Cx) : Cx := ⟨fsub a.re b.re, fsub a.im b.im⟩

/-- `conj` (rule R11). -/
def conj (a : Cx) : Cx := ⟨a.re, fneg a.im⟩

/-- `cmul` (rule R11). -/
def cmul (a b : Cx) : Cx :=
  ⟨fsub (fmul a.re b.re) (fmul a.im b.im), fadd (fmul a.re b.im) (fmul a.im b.re)⟩

/-- `cscale` (rule R11). -/
def cscale (a : Cx) (c : Word) : Cx := ⟨fmul a.re c, fmul a.im c⟩

end Sys2Proof.Machine
end

