-- ==== Sys2Proof/Machine/State.lean ====
section
/-! DEFINITION. The state of RS-CORE as plain data (rules R20 to R58), its reset value (rules R58, R280), and the
reasons a step can stop. -/

namespace Sys2Proof.Machine

open Sys2Proof.Config (Params)

/-- The contents of one memory: the bytes that have been written, by byte address within the memory, addresses
strictly rising. An address that is not listed has not been written since reset: it holds no value (U1). -/
abbrev Memory := List Host.Cell

/-- The internal memories (rules R50 to R55). -/
inductive MemId where
  | hdr | xn | x | z | cx | fm | tw | wrom | coef | bufs | dcbuf | iqbuf | lpiq | lpfm | decbuf | matchT | rot
deriving DecidableEq, Repr

/-- The contents of every internal memory. Word `i` of a memory is entry `i` (real), or the real part (`2k`) and the
imaginary part (`2k+1`) of entry `k` (complex), as in the map of rule R62. -/
structure Mems where
  hdr : Memory
  xn : Memory
  x : Memory
  z : Memory
  cx : Memory
  fm : Memory
  tw : Memory
  wrom : Memory
  coef : Memory
  bufs : Memory
  dcbuf : Memory
  iqbuf : Memory
  lpiq : Memory
  lpfm : Memory
  decbuf : Memory
  matchT : Memory
  rot : Memory
deriving DecidableEq, Repr

/-- STATUS.SESSION (rule R26); the value 3 never occurs. -/
inductive Session where
  | uninit | ready | ended
deriving DecidableEq, Repr

/-- STATUS.DETSTATE (rules R26, R200). -/
inductive DetState where
  | searching | peakFound | headerVerified | lost
deriving DecidableEq, Repr

/-- The fields of STATUS (rule R26). -/
structure Status where
  busy : Bool
  session : Session
  eos : Bool
  lost : Bool
  fault : Bool
  locked : Bool
  det : DetState
deriving DecidableEq, Repr

/-- Four operand or result registers (rule R21). -/
structure Quad where
  r0 : Word
  r1 : Word
  r2 : Word
  r3 : Word
deriving DecidableEq, Repr

/-- The configuration registers CFG_* (rules R28 to R40). -/
structure Cfg where
  sr : Word
  fmt : Word
  mode : Word
  sps : Word
  hdrLen : Word
  symLen : Word
  bt : Word
  k : Word
  delay : Word
  decm : Word
  rotf : Word
  rotw : Word
  gdelay : Word
  loopg : Word
deriving DecidableEq, Repr

/-- The session registers S_* (rules R41, R42). -/
structure Sizes where
  n : Word
  log2n : Word
  m : Word
  l : Word
  k : Word
  rotLen : Word
  taps0 : Word
  taps1 : Word
  taps2 : Word
  taps3 : Word
  decm : Word
deriving DecidableEq, Repr

/-- The run-time registers (rules R43 to R48). -/
structure Run where
  sampleIn : Word
  sampleOut : Word
  mv : Word
  mvPos : Word
  dc : Word
  df : Word
  ddf : Word
  buffered : Word
  sc : Word
  /-- BG as UQ32.16 (rule R46). -/
  bg : BitVec 48
  nosig : Word
  kcnt : Word
  sdec : Word
  iqdcCnt : Word
  iqdcMaxCnt : Word
  iqdcSumX : Word
  iqdcSumY : Word
  iqdcAvgX : Word
  iqdcAvgY : Word
  lpiqWp : Word
  lpfmWp : Word
deriving DecidableEq, Repr

/-- One frame of the SOURCE (rule R140): its raw samples, the low CFG_FMT.BPS bits of each; a mono frame has only
the first. -/
structure Frame where
  r0 : Word
  r1 : Word
deriving DecidableEq, Repr

/-- The frame sequence of the SOURCE, a launch parameter (rules R15, R140): the listed frames, followed by frames of
which nothing is known if it is endless. -/
structure Source where
  frames : List Frame
  endless : Bool
deriving DecidableEq, Repr

/-- What the HOST or the platform does to the block: a bus access of `width` bytes at a platform address (rules R60
to R74), or the hardware reset input (rule R280). -/
inductive HostEvent where
  | read (width addr : Nat)
  | write (width addr : Nat) (value : Word)
  | hardReset
deriving DecidableEq, Repr

/-- The whole machine. -/
structure State where
  /-- The instance's parameters (rules R5, R6); no step changes them. -/
  inst : Params
  /-- CTRL.ACTIVE (rule R25). -/
  active : Bool
  status : Status
  /-- RESULT, FCAUSE, FINFO (rule R27). -/
  result : Word
  fcause : Word
  finfo : Word
  /-- ARG0 to ARG3 (rule R21). -/
  arg : Quad
  /-- The CORE's private operand latches (rule R85). -/
  latch : Quad
  /-- RES0 to RES3 (rule R21). -/
  res : Quad
  cfg : Cfg
  size : Sizes
  run : Run
  mem : Mems
  source : Source
  /-- How many frames the SOURCE has delivered (rule R20). -/
  srcPos : Nat
  /-- What the HOST will do while the CORE is idle, first event first. -/
  host : List HostEvent
  /-- What the HOST will do while commands run: one entry for each sample step of FIND_HDR, RD_HBIT and RD_SBIT, the
  events that land just before it (rules R16, R74). -/
  during : List (List HostEvent)
  /-- What the HOST's reads have returned, last first. -/
  hostReads : List Word
  /-- The free-value counter: how many choices of unspecified values have been made. -/
  free : Nat
deriving DecidableEq, Repr

/-- Why a step has no next state. Nothing that the spec defines stops RS-CORE: its own faults are records in STATUS,
FCAUSE and FINFO (rule R256). -/
inductive Fault where
  /-- A bit read would carry SC past 2^32 - 1 or BG past 2^32 - 2^-16, behaviour "outside this specification" (rule
  R289 e, U5). Raised by RD_HBIT and RD_SBIT. Safe: the hardware goes on in a way the spec does not give. -/
  | slicerClockOverflow
  /-- FIND_HDR has no last iteration: the no-signal limit T_NOSIG·SR does not fit the 32-bit NOSIG, which no session
  that INIT opened has (rules R28, R298). Raised by FIND_HDR. Safe: the search has no outcome. -/
  | searchWithoutEnd
deriving DecidableEq, Repr

/-- Why the model gives an instruction no meaning. -/
inductive Refusal where
  /-- An instruction whose arm of `exec` is not written yet; safe. No arm raises it. -/
  | notModelled (mnemonic : String)
deriving DecidableEq, Repr

/-- Four registers holding 0. -/
def Quad.zero : Quad := ⟨0#32, 0#32, 0#32, 0#32⟩

/-- STATUS after reset: 0 (rule R280). -/
def Status.reset : Status where
  busy := false
  session := .uninit
  eos := false
  lost := false
  fault := false
  locked := false
  det := .searching

/-- Every CFG register after reset: 0 (rule R280). -/
def Cfg.reset : Cfg where
  sr := 0#32
  fmt := 0#32
  mode := 0#32
  sps := 0#32
  hdrLen := 0#32
  symLen := 0#32
  bt := 0#32
  k := 0#32
  delay := 0#32
  decm := 0#32
  rotf := 0#32
  rotw := 0#32
  gdelay := 0#32
  loopg := 0#32

/-- Every S_ register after reset: 0 (rule R280). -/
def Sizes.reset : Sizes where
  n := 0#32
  log2n := 0#32
  m := 0#32
  l := 0#32
  k := 0#32
  rotLen := 0#32
  taps0 := 0#32
  taps1 := 0#32
  taps2 := 0#32
  taps3 := 0#32
  decm := 0#32

/-- The run-time registers after reset: 0, but SAMPLE_OUT = 0xFFFFFFFF (rules R23, R280). -/
def Run.reset : Run where
  sampleIn := 0#32
  sampleOut := 0xFFFFFFFF#32
  mv := 0#32
  mvPos := 0#32
  dc := 0#32
  df := 0#32
  ddf := 0#32
  buffered := 0#32
  sc := 0#32
  bg := 0#48
  nosig := 0#32
  kcnt := 0#32
  sdec := 0#32
  iqdcCnt := 0#32
  iqdcMaxCnt := 0#32
  iqdcSumX := 0#32
  iqdcSumY := 0#32
  iqdcAvgX := 0#32
  iqdcAvgY := 0#32
  lpiqWp := 0#32
  lpfmWp := 0#32

/-- Every internal memory after reset: nothing written, so every entry unspecified (rules R58, R280). -/
def Mems.reset : Mems where
  hdr := []
  xn := []
  x := []
  z := []
  cx := []
  fm := []
  tw := []
  wrom := []
  coef := []
  bufs := []
  dcbuf := []
  iqbuf := []
  lpiq := []
  lpfm := []
  decbuf := []
  matchT := []
  rot := []

/-- RS-CORE after hardware reset (rules R58, R280), an instance with the example parameters, a SOURCE without frames
and a HOST with nothing to do. -/
def State.reset : State where
  inst := Params.default
  active := true
  status := Status.reset
  result := 0#32
  fcause := 0#32
  finfo := 0#32
  arg := Quad.zero
  latch := Quad.zero
  res := Quad.zero
  cfg := Cfg.reset
  size := Sizes.reset
  run := Run.reset
  mem := Mems.reset
  source := ⟨[], false⟩
  srcPos := 0
  host := []
  during := []
  hostReads := []
  free := 0

end Sys2Proof.Machine
end

