-- ==== Sys2Proof/Machine/Ops.lean ====
section
/-! DEFINITION. The operations that all commands share: bytes, words and complex entries of the internal memories,
the registers a command ends with, raising a fault and leaving the fault state (rules R256, R259), and the dispatch
sequence of a command (rule R230). -/

namespace Sys2Proof.Machine

/-! ### Memories -/

/-- The addresses of a memory's bytes rise strictly: its canonical form. An unlisted address holds no value, so no
entry can equal it. -/
abbrev Memory.wf (m : Memory) : Prop := m.Pairwise (fun a b => a.1 < b.1)

/-- The byte at an address, if it has been written since reset. -/
def Memory.get (m : Memory) (a : Nat) : Option Byte :=
  match m with
  | [] => none
  | c :: rest => if c.1 = a then some c.2 else Memory.get rest a

/-- Bytes with the addresses from `a` up. -/
def cellsFrom (a : Nat) : List Byte → Memory
  | [] => []
  | b :: bs => (a, b) :: cellsFrom (a + 1) bs

/-- The memory with the bytes `bs` at the addresses from `a` up. -/
def Memory.store (m : Memory) (a : Nat) (bs : List Byte) : Memory :=
  m.filter (fun c => decide (c.1 < a)) ++ cellsFrom a bs ++ m.filter (fun c => decide (a + bs.length ≤ c.1))

/-- Word `i`, if its four bytes have been written since reset; little-endian (rule R65). -/
def Memory.word (m : Memory) (i : Nat) : Option Word :=
  match m.get (4 * i), m.get (4 * i + 1), m.get (4 * i + 2), m.get (4 * i + 3) with
  | some b0, some b1, some b2, some b3 => some (bytesWord b0 b1 b2 b3)
  | _, _, _, _ => none

/-- The memory with the words `ws` at the word indices from `i` up. -/
def Memory.storeWords (m : Memory) (i : Nat) (ws : List Word) : Memory :=
  m.store (4 * i) (ws.flatMap wordBytes)

/-- The contents of one memory. -/
def Mems.get (ms : Mems) : MemId → Memory
  | .hdr => ms.hdr
  | .xn => ms.xn
  | .x => ms.x
  | .z => ms.z
  | .cx => ms.cx
  | .fm => ms.fm
  | .tw => ms.tw
  | .wrom => ms.wrom
  | .coef => ms.coef
  | .bufs => ms.bufs
  | .dcbuf => ms.dcbuf
  | .iqbuf => ms.iqbuf
  | .lpiq => ms.lpiq
  | .lpfm => ms.lpfm
  | .decbuf => ms.decbuf
  | .matchT => ms.matchT
  | .rot => ms.rot

/-- The memories with one of them replaced. -/
def Mems.set (ms : Mems) (id : MemId) (m : Memory) : Mems :=
  match id with
  | .hdr => { ms with hdr := m }
  | .xn => { ms with xn := m }
  | .x => { ms with x := m }
  | .z => { ms with z := m }
  | .cx => { ms with cx := m }
  | .fm => { ms with fm := m }
  | .tw => { ms with tw := m }
  | .wrom => { ms with wrom := m }
  | .coef => { ms with coef := m }
  | .bufs => { ms with bufs := m }
  | .dcbuf => { ms with dcbuf := m }
  | .iqbuf => { ms with iqbuf := m }
  | .lpiq => { ms with lpiq := m }
  | .lpfm => { ms with lpfm := m }
  | .decbuf => { ms with decbuf := m }
  | .matchT => { ms with matchT := m }
  | .rot => { ms with rot := m }

/-- The number by which the free value `Config.freeWord` knows a memory. -/
def MemId.id : MemId → Nat
  | .hdr => 0
  | .xn => 1
  | .x => 2
  | .z => 3
  | .cx => 4
  | .fm => 5
  | .tw => 6
  | .wrom => 7
  | .coef => 8
  | .bufs => 9
  | .dcbuf => 10
  | .iqbuf => 11
  | .lpiq => 12
  | .lpfm => 13
  | .decbuf => 14
  | .matchT => 15
  | .rot => 16

/-- The byte of an internal memory at a byte address within it, if written since reset. -/
def State.byte (s : State) (id : MemId) (a : Nat) : Option Byte := (s.mem.get id).get a

/-- Word `i` of a memory as the CORE or the HOST reads it; any value if it has not been written since reset (U1). -/
def State.readWord (s : State) (id : MemId) (i : Nat) : Word :=
  match (s.mem.get id).word i with
  | some w => w
  | none => Config.freeWord s.free id.id i

/-- Complex entry `i` of a memory. -/
def State.readCx (s : State) (id : MemId) (i : Nat) : Cx := ⟨s.readWord id (2 * i), s.readWord id (2 * i + 1)⟩

/-- The first `n` real entries of a memory. -/
def State.readReals (s : State) (id : MemId) (n : Nat) : List Word := (List.range n).map (s.readWord id)

/-- The first `n` complex entries of a memory. -/
def State.readCxs (s : State) (id : MemId) (n : Nat) : List Cx := (List.range n).map (s.readCx id)

/-- A memory's real entries from index `i` up overwritten. -/
def State.writeWords (s : State) (id : MemId) (i : Nat) (ws : List Word) : State :=
  { s with mem := s.mem.set id ((s.mem.get id).storeWords i ws) }

/-- The two words of a complex entry, real part first (rule R62). -/
def Cx.words (c : Cx) : List Word := [c.re, c.im]

/-- A memory's complex entries from index `i` up overwritten. -/
def State.writeCxs (s : State) (id : MemId) (i : Nat) (cs : List Cx) : State :=
  s.writeWords id (2 * i) (cs.flatMap Cx.words)

/-- A new choice of every unspecified value (U1, U2: two reads need not agree). -/
def State.fresh (s : State) : State := { s with free := s.free + 1 }

/-! ### Return codes (rule R250) -/

/-- 0, OK. -/
def rcOk : Word := 0x00000000#32
/-- -1, EndOfStream. -/
def rcEndOfStream : Word := 0xFFFFFFFF#32
/-- -3, AllocationFailure. -/
def rcAllocationFailure : Word := 0xFFFFFFFD#32
/-- -4, BoundaryRejection. -/
def rcBoundaryRejection : Word := 0xFFFFFFFC#32
/-- -5, SignalLost. -/
def rcSignalLost : Word := 0xFFFFFFFB#32
/-- -6, ConfigInvalid. -/
def rcConfigInvalid : Word := 0xFFFFFFFA#32
/-- -8, Faulted. -/
def rcFaulted : Word := 0xFFFFFFF8#32

/-! ### Faults: entry, and the way out -/

/-- The fault causes of rule R254. -/
inductive Cause where
  | illegalCommand | badState | badArgument | hostAccess
deriving DecidableEq, Repr

/-- The value FCAUSE holds for a cause (rule R254). -/
def Cause.code : Cause → Word
  | .illegalCommand => 1#32
  | .badState => 2#32
  | .badArgument => 3#32
  | .hostAccess => 4#32

/-- Fault entry (rule R256): only the first fault since reset is recorded in FCAUSE and FINFO. -/
def State.raiseFault (s : State) (c : Cause) (info : Word) : State :=
  { s with
    fcause := if s.status.fault then s.fcause else c.code
    finfo := if s.status.fault then s.finfo else info
    status := { s.status with fault := true } }

/-- Hardware reset, and the effect of SRESET (rules R235, R280): every register at its reset value, every memory
unspecified; the SOURCE, what the HOST does and the instance's parameters are outside the block. It is the only way
out of the fault state (rule R259). -/
def State.hardwareReset (s : State) : State :=
  { State.reset with
    inst := s.inst
    source := s.source
    srcPos := s.srcPos
    host := s.host
    during := s.during
    hostReads := s.hostReads
    free := s.free + 1 }

/-! ### Commands -/

/-- STATUS.BUSY set, ARG0 to ARG3 copied into the operand latches (rule R85). -/
def State.beginCommand (s : State) : State :=
  { s with
    status := { s.status with busy := true }
    latch := s.arg
    free := s.free + 1 }

/-- RESULT written, STATUS.BUSY cleared (rules R85, R230 `done`). -/
def State.endCommand (s : State) (code : Word) : State :=
  { s with
    result := code
    status := { s.status with busy := false } }

/-- A command fault (rules R230, R256): recorded with the command word, RESULT -8. -/
def State.commandFault (s : State) (c : Cause) (w : Word) : State := (s.raiseFault c w).endCommand rcFaulted

/-- RES0 written. -/
def State.setRes0 (s : State) (v : Word) : State := { s with res := { s.res with r0 := v } }

/-- RES0 and RES1 written. -/
def State.setRes01 (s : State) (v0 v1 : Word) : State := { s with res := { s.res with r0 := v0, r1 := v1 } }

/-- RES0 to RES2 written. -/
def State.setRes012 (s : State) (v0 v1 v2 : Word) : State :=
  { s with res := { s.res with r0 := v0, r1 := v1, r2 := v2 } }

/-- RES0 to RES3 written. -/
def State.setRes (s : State) (v0 v1 v2 v3 : Word) : State := { s with res := ⟨v0, v1, v2, v3⟩ }

/-- How a command's own rule ends (rule R230 step 4). -/
inductive CmdEnd where
  /-- `return code`. -/
  | ret (code : Word) (s : State)
  /-- `raise Fault(cause, command word)`, before anything has changed. -/
  | raise (c : Cause)
  /-- Hardware reset abandoned the command (rule R281). -/
  | abandoned (s : State)
  /-- The model stops. -/
  | stop (f : Fault)

/-- The session states in which a command is legal (rule R91). -/
def legalIn (i : Instr) (session : Session) : Bool :=
  match i with
  | .nop => true
  | .sreset => true
  | .init => decide (session = .uninit)
  | .lpDesign _ => decide (session = .uninit)
  | .fftR _ => decide (session ≠ .uninit)
  | .fftC _ _ => decide (session ≠ .uninit)
  | .ifftN _ _ => decide (session ≠ .uninit)
  | .winR _ => decide (session ≠ .uninit)
  | .winC _ _ => decide (session ≠ .uninit)
  | .cmul _ _ => decide (session ≠ .uninit)
  | .lpApply _ => decide (session ≠ .uninit)
  | .rdSample => decide (session ≠ .uninit)
  | .rdCsample => decide (session ≠ .uninit)
  | .demodStep => decide (session ≠ .uninit)
  | .corrStep => decide (session ≠ .uninit)
  | .headcmp => decide (session ≠ .uninit)
  | .findHdr => decide (session ≠ .uninit)
  | .rdHbit _ => decide (session ≠ .uninit)
  | .rdSbit _ => decide (session ≠ .uninit)

/-- The command word that the fault gate lets through (rule R230 step 1). -/
def sresetWord : Word := 0x02000000#32

/-- The end of a command's own rule as an outcome of the step. -/
def finishCommand (w : Word) (t : State) : CmdEnd → Host.Outcome State Fault Refusal
  | .ret code u => .next (u.endCommand code)
  | .raise c => .next (t.commandFault c w)
  | .abandoned u => .next u
  | .stop f => .fault f

/-- The dispatch sequence of rule R230 for a command and its own rule: fault gate, decode, state check, then the
rule itself. -/
def runCommand (i : Instr) (body : State → CmdEnd) (s : State) : Host.Outcome State Fault Refusal :=
  let w := encode i
  let t := s.beginCommand
  if t.status.fault = true ∧ w ≠ sresetWord then .next (t.endCommand rcFaulted)
  else if i.wellFormed = false then .next (t.commandFault .illegalCommand w)
  else if legalIn i t.status.session = false then .next (t.commandFault .badState w)
  else finishCommand w t (body t)

/-- The dispatch sequence of rule R230 for a word that is no command (rule R92). -/
def runIllegal (w : Word) (s : State) : Host.Outcome State Fault Refusal :=
  let t := s.beginCommand
  if t.status.fault = true ∧ w ≠ sresetWord then .next (t.endCommand rcFaulted)
  else .next (t.commandFault .illegalCommand w)

/-! ### Commands that run many sample steps -/

/-- What a stage of a long command comes to. -/
inductive Flow (α : Type) where
  /-- Its result and the state after it. -/
  | done (a : α) (s : State)
  /-- A Pull yielded EOS (rule R141). -/
  | eos (s : State)
  /-- Hardware reset abandoned the command (rule R281). -/
  | reset (s : State)
  /-- The model stops. -/
  | stop (f : Fault)

/-- One stage after another. -/
def Flow.bind {α β : Type} (x : Flow α) (k : α → State → Flow β) : Flow β :=
  match x with
  | .done a s => k a s
  | .eos s => .eos s
  | .reset s => .reset s
  | .stop f => .stop f

/-- A stage that can only end or yield EOS, as a stage of a long command. -/
def Flow.ofOption {α : Type} (r : Option α × State) : Flow α :=
  match r with
  | (some a, s) => .done a s
  | (none, s) => .eos s

/-- The end of a command whose stages end in a state. -/
def Flow.finish {α : Type} (x : Flow α) (k : α → State → CmdEnd) : CmdEnd :=
  match x with
  | .done a s => k a s
  | .eos s => .ret rcEndOfStream s
  | .reset s => .abandoned s
  | .stop f => .stop f

/-- What a stream command returns in ENDED (rules R144, R251 c). -/
def endedCode (s : State) : Word := if s.status.eos then rcEndOfStream else rcSignalLost

end Sys2Proof.Machine
end

