-- ==== Sys2Proof/Machine/Reals.lean ====
section
/-! DEFINITION. Exact reals, as far as the spec's tables need them (rules R12, R13): each is computed as an enclosure
in units of 2^-p, for as large a `p` as it takes until both ends round to the same value of F. That value is then
`rnd_F` of the real, with one rounding and none before it. -/

namespace Sys2Proof.Machine

/-- The reals from `lo/2^p` to `hi/2^p`, for a `p` known from the context. -/
structure Encl where
  lo : Int
  hi : Int
deriving DecidableEq, Repr

/-- The quotient rounded down. -/
def floorDiv (a : Int) (b : Nat) : Int := a / (b : Int)

/-- The quotient rounded up. -/
def ceilDiv (a : Int) (b : Nat) : Int := -((-a) / (b : Int))

/-- The rational `num/den`. -/
def Encl.ratio (p : Nat) (num : Int) (den : Nat) : Encl :=
  ⟨floorDiv (num * 2 ^ p) den, ceilDiv (num * 2 ^ p) den⟩

/-- Zero, exactly. -/
def Encl.zero : Encl := ⟨0, 0⟩

/-- Sum. -/
def Encl.add (a b : Encl) : Encl := ⟨a.lo + b.lo, a.hi + b.hi⟩

/-- Negation. -/
def Encl.neg (a : Encl) : Encl := ⟨-a.hi, -a.lo⟩

/-- Difference. -/
def Encl.sub (a b : Encl) : Encl := a.add b.neg

/-- Multiplication by an integer. -/
def Encl.scale (a : Encl) (c : Int) : Encl := if 0 ≤ c then ⟨a.lo * c, a.hi * c⟩ else ⟨a.hi * c, a.lo * c⟩

/-- Division by a positive integer. -/
def Encl.divNat (a : Encl) (d : Nat) : Encl := ⟨floorDiv a.lo d, ceilDiv a.hi d⟩

/-- Widening by `w` units at both ends. -/
def Encl.widen (a : Encl) (w : Int) : Encl := ⟨a.lo - w, a.hi + w⟩

/-- The smallest of four integers. -/
def min4 (a b c d : Int) : Int := min (min a b) (min c d)

/-- The largest of four integers. -/
def max4 (a b c d : Int) : Int := max (max a b) (max c d)

/-- Product. -/
def Encl.mul (p : Nat) (a b : Encl) : Encl :=
  let u := a.lo * b.lo
  let v := a.lo * b.hi
  let w := a.hi * b.lo
  let x := a.hi * b.hi
  ⟨floorDiv (min4 u v w x) (2 ^ p), ceilDiv (max4 u v w x) (2 ^ p)⟩

/-- Quotient by a positive enclosure. -/
def Encl.divPos (p : Nat) (a b : Encl) : Encl :=
  let d := b.lo.toNat
  let e := b.hi.toNat
  ⟨min (floorDiv (a.lo * 2 ^ p) d) (floorDiv (a.lo * 2 ^ p) e),
    max (ceilDiv (a.hi * 2 ^ p) d) (ceilDiv (a.hi * 2 ^ p) e)⟩

/-- Quotient; none if the divisor's enclosure holds zero. -/
def Encl.div (p : Nat) (a b : Encl) : Option Encl :=
  if 0 < b.lo then some (a.divPos p b)
  else if b.hi < 0 then some (a.neg.divPos p b.neg)
  else none

/-- Square root of a real that is not negative. -/
def Encl.sqrt (p : Nat) (a : Encl) : Encl :=
  ⟨natSqrt (a.lo.toNat * 2 ^ p), natSqrt (a.hi.toNat * 2 ^ p) + 1⟩

/-- An alternating series whose terms decrease: from term `n` on, each term is the one before times `x` over
`den n`, and is summed over `weight n`; the rest is at most the first term left out. -/
def altSeries (p : Nat) (x : Encl) (den weight : Nat → Nat) : Nat → Nat → Encl → Encl → Encl
  | 0, _, term, acc => acc.widen term.hi
  | fuel + 1, n, term, acc =>
    if term.hi ≤ 1 then acc.widen term.hi
    else
      let t := term.divNat (weight n)
      altSeries p x den weight fuel (n + 1) ((term.mul p x).divNat (den n)) (if n % 2 = 0 then acc.add t else acc.sub t)

/-- `arctan t` for `0 ≤ t ≤ 1/2`. -/
def arctanSmall (p : Nat) (t : Encl) : Encl :=
  altSeries p (t.mul p t) (fun _ => 1) (fun n => 2 * n + 1) p 0 t Encl.zero

/-- π by Machin's formula, 16·arctan(1/5) - 4·arctan(1/239). -/
def piEncl (p : Nat) : Encl :=
  ((arctanSmall p (Encl.ratio p 1 5)).scale 16).sub ((arctanSmall p (Encl.ratio p 1 239)).scale 4)

/-- The series 1/3 + 1/(3·3^3) + 1/(5·3^5) + ..., whose terms decrease ninefold. -/
def ln2Series : Nat → Nat → Encl → Encl → Encl
  | 0, _, term, acc => ⟨acc.lo, acc.hi + 2 * term.hi⟩
  | fuel + 1, n, term, acc => ln2Series fuel (n + 1) (term.divNat 9) (acc.add (term.divNat (2 * n + 1)))

/-- ln 2, twice the series above. -/
def ln2Encl (p : Nat) : Encl := (ln2Series p 0 (Encl.ratio p 1 3) Encl.zero).scale 2

/-- A precision, with the constants at that precision. -/
structure Prec where
  p : Nat
  pi : Encl
  ln2 : Encl
deriving DecidableEq, Repr

/-- The precision of `p` bits. -/
def Prec.ofBits (p : Nat) : Prec := ⟨p, piEncl p, ln2Encl p⟩

/-- `cos(2π·num/den)` for a turn of at most 1/8. -/
def cosEighth (c : Prec) (num den : Nat) : Encl :=
  let x := (c.pi.scale (2 * num)).divNat den
  altSeries c.p (x.mul c.p x) (fun n => (2 * n + 1) * (2 * n + 2)) (fun _ => 1) c.p 0 (Encl.ratio c.p 1 1) Encl.zero

/-- `sin(2π·num/den)` for a turn of at most 1/8. -/
def sinEighth (c : Prec) (num den : Nat) : Encl :=
  let x := (c.pi.scale (2 * num)).divNat den
  altSeries c.p (x.mul c.p x) (fun n => (2 * n + 2) * (2 * n + 3)) (fun _ => 1) c.p 0 x Encl.zero

/-- `cos(2π·num/den)` for a turn below 1/4; exact at 0. -/
def cosQuarter (c : Prec) (num den : Nat) : Encl :=
  if num = 0 then Encl.ratio c.p 1 1
  else if 8 * num ≤ den then cosEighth c num den
  else sinEighth c (den - 4 * num) (4 * den)

/-- `sin(2π·num/den)` for a turn below 1/4; exact at 0. -/
def sinQuarter (c : Prec) (num den : Nat) : Encl :=
  if num = 0 then Encl.zero
  else if 8 * num ≤ den then sinEighth c num den
  else cosEighth c (den - 4 * num) (4 * den)

/-- The turn `num/den` modulo 1 as a number of quarters and the rest of `4·den`. -/
def quarterOf (num : Int) (den : Nat) : Nat × Nat :=
  let r := 4 * (num % (den : Int)).toNat
  (r / den, r % den)

/-- `cos(2π·num/den)`. -/
def cosTurn (c : Prec) (num : Int) (den : Nat) : Encl :=
  let q := quarterOf num den
  match q.1 with
  | 0 => cosQuarter c q.2 (4 * den)
  | 1 => (sinQuarter c q.2 (4 * den)).neg
  | 2 => (cosQuarter c q.2 (4 * den)).neg
  | _ => sinQuarter c q.2 (4 * den)

/-- `sin(2π·num/den)`. -/
def sinTurn (c : Prec) (num : Int) (den : Nat) : Encl :=
  let q := quarterOf num den
  match q.1 with
  | 0 => sinQuarter c q.2 (4 * den)
  | 1 => cosQuarter c q.2 (4 * den)
  | 2 => (sinQuarter c q.2 (4 * den)).neg
  | _ => (cosQuarter c q.2 (4 * den)).neg

/-- `sinc(num/den)` of rule R121: 1 at 0, exactly 0 at every other integer. -/
def sincRatio (c : Prec) (num : Int) (den : Nat) : Option Encl :=
  if num = 0 then some (Encl.ratio c.p 1 1)
  else if num % (den : Int) = 0 then some Encl.zero
  else (sinTurn c num (2 * den)).div c.p ((c.pi.scale num).divNat den)

/-- `arctan(num/den)/π` for `num ≤ den`. -/
def arctanRatioPi (c : Prec) (num den : Nat) : Option Encl :=
  if num = den then some (Encl.ratio c.p 1 4)
  else if 2 * num ≤ den then (arctanSmall c.p (Encl.ratio c.p num den)).div c.p c.pi
  else ((arctanSmall c.p (Encl.ratio c.p (den - num : Nat) (den + num))).div c.p c.pi).map (Encl.ratio c.p 1 4).sub

/-- The argument of the complex number `(x, y)` over π, for `x` and `y` not zero, from their signs and magnitudes. -/
def anglePi (c : Prec) (negY negX : Bool) (y x : Nat) : Option Encl :=
  let acute := if y ≤ x then arctanRatioPi c y x else (arctanRatioPi c x y).map (Encl.ratio c.p 1 2).sub
  let upper := if negX then acute.map (Encl.ratio c.p 1 1).sub else acute
  if negY then upper.map Encl.neg else upper

/-- The sum x - x^3/(1!·3) + x^5/(2!·5) - ... for `x = n/2^p`, `x²` at most `bound`; none if it has not settled. -/
def erfSeries (p : Nat) (x2 : Encl) (bound : Nat) : Nat → Nat → Encl → Encl → Option Encl
  | 0, _, _, _ => none
  | fuel + 1, n, term, acc =>
    if bound < n ∧ term.hi ≤ 1 then some (acc.widen term.hi)
    else
      let t := term.divNat (2 * n + 1)
      erfSeries p x2 bound fuel (n + 1) ((term.mul p x2).divNat (n + 1)) (if n % 2 = 0 then acc.add t else acc.sub t)

/-- `erf(n/2^p)` for `n ≥ 0`. Beyond `x² = p` it differs from 1 by less than 2^-p; below, the series is summed with
enough bits more that its large terms cancel. -/
def erfNat (c : Prec) (n : Nat) : Option Encl :=
  if c.p * 2 ^ (2 * c.p) ≤ n * n then some ⟨2 ^ c.p - 1, 2 ^ c.p⟩
  else
    let bound := n * n / 2 ^ (2 * c.p) + 1
    let g := 2 * bound + 16
    let q := c.p + g
    let x : Encl := ⟨(n * 2 ^ g : Nat), (n * 2 ^ g : Nat)⟩
    match erfSeries q (x.mul q x) bound (8 * bound + q) 0 x Encl.zero with
    | none => none
    | some s => (((s.scale 2).div q ((piEncl q).sqrt q)).map (·.divNat (2 ^ g)))

/-- `erf` at an end of an enclosure. -/
def erfInt (c : Prec) (n : Int) : Option Encl :=
  if n = 0 then some Encl.zero
  else if 0 < n then erfNat c n.natAbs
  else (erfNat c n.natAbs).map Encl.neg

/-- `erf`, which increases. -/
def erfEncl (c : Prec) (x : Encl) : Option Encl :=
  match erfInt c x.lo, erfInt c x.hi with
  | some a, some b => some ⟨a.lo, b.hi⟩
  | _, _ => none

/-- `n/2^p` rounded to F. -/
def roundInt (p : Nat) (n : Int) : Word := roundUnits (decide (n < 0)) (n.natAbs * 2 ^ 149) (2 ^ p)

/-- `rnd_F` of a real from its enclosure (rule R12), if the enclosure decides it: exactly zero gives +0, and a
nonzero real too small for F a zero whose sign rule R12 leaves open. `key` says which real it is. -/
def roundEncl (key : List Nat) (p : Nat) (e : Encl) : Option Word :=
  if e.lo = 0 ∧ e.hi = 0 then some fzero
  else
    let a := roundInt p e.lo
    let b := roundInt p e.hi
    if fmag a = 0 ∧ fmag b = 0 then some (pack (Config.tinyZeroNegative key) 0)
    else if a = b then some a
    else none

/-- The precisions that are tried in turn. -/
def precisions : List Nat := [64, 128, 256, 512, 1024, 2048]

/-- `rnd_F` of the real that `f` encloses. -/
def roundReal (key : List Nat) (f : Prec → Option Encl) : List Nat → Word
  | [] => Config.undecidedEntry key
  | p :: ps =>
    match (f (Prec.ofBits p)).bind (roundEncl key p) with
    | some w => w
    | none => roundReal key f ps

/-- An enclosure rounded, if there is one and it decides the value. -/
def roundOpt (p : Nat) (key : List Nat) (e : Option Encl) : Option Word := e.bind (roundEncl key p)

/-- `rnd_F` of each of a list of reals, enclosed together at one precision after the other. -/
def roundTable (keys : List (List Nat)) (f : Prec → List (Option Encl)) : List Nat → List (Option Word)
  | [] => keys.map (fun _ => none)
  | p :: ps =>
    let here := List.zipWith (roundOpt p) keys (f (Prec.ofBits p))
    if here.all Option.isSome then here else List.zipWith (fun a b => a.orElse (fun _ => b)) here (roundTable keys f ps)

/-- The table itself; an entry that no precision decides is unknown. -/
def tableEntries (keys : List (List Nat)) (f : Prec → List (Option Encl)) : List Word :=
  List.zipWith (fun k w => w.getD (Config.undecidedEntry k)) keys (roundTable keys f precisions)

end Sys2Proof.Machine
end

