-- ==== Sys2Proof/Machine/Tables.lean ====
section
/-! DEFINITION. The run-time functions of `NUM` (rule R13) and the tables defined by closed real formulas: twiddle ROM
(R101), window ROM (R107), low-pass coefficients (R121), rotation table (R150) and template (R181, R182). -/

namespace Sys2Proof.Machine

/-- `CIS` for a turn `a/b` in lowest terms, in [0, 1): the exact points of rule R13, else the instance's function. -/
def cisReduced (num : Config.Num) (a b : Nat) : Cx :=
  if b = 1 then ⟨fone, fzero⟩
  else if b = 2 then ⟨fneg fone, fzero⟩
  else if b = 4 then (if a = 1 then ⟨fzero, fone⟩ else ⟨fzero, fneg fone⟩)
  else match num with
    | .reference =>
      ⟨roundReal [0, a, b] (fun c => some (cosTurn c a b)) precisions,
        roundReal [1, a, b] (fun c => some (sinTurn c a b)) precisions⟩
    | .other id => ⟨(Config.cis id a b).1, (Config.cis id a b).2⟩

/-- `CIS(n/d)` of rule R13; it depends on the turn modulo 1 alone. -/
def cis (num : Config.Num) (n : Int) (d : Nat) : Cx :=
  let r := (n % (d : Int)).toNat
  let g := Nat.gcd r d
  cisReduced num (r / g) (d / g)

/-- A free value confined to the range [-1, +1] of rule R13. -/
def intoUnitRange (w : Word) : Word := if fmag w ≤ 0x3F800000 then w else w &&& 0xBF7FFFFF#32

/-- `ATAN2PI` of two finite nonzero values in the reference configuration: the argument of `(x, y)` over π, rounded. -/
def atan2piRef (y x : Word) : Word :=
  roundReal [2, y.toNat, x.toNat]
    (fun c => anglePi c (fsign y) (fsign x) (magUnits (fmag y)) (magUnits (fmag x))) precisions

/-- The reference `ATAN2PI` where an operand is infinite and none is zero (rule R13): the direction that the point
`(x, y)` tends to, over π, an angle of zero being the +0 of rule R12. DEDUCED: log entry 16. -/
def atan2piInf (y x : Word) : Word :=
  let magnitude :=
    if isInf y then (if isInf x then (if fsign x then 0x3F400000#32 else 0x3E800000#32) else fhalf) else fone
  if isFinite y && !fsign x then fzero else if fsign y then fneg magnitude else magnitude

/-- `ATAN2PI(y, x)` of rule R13: NaN operands, the exact points in the order the rule gives them, and else the
instance's function, which the rule confines to [-1, +1]. -/
def atan2pi (num : Config.Num) (y x : Word) : Word :=
  if isNaN y || isNaN x then nanOf .angle y x
  else if isZero y && isZero x then fzero
  else if isZero y && !fsign x then fzero
  else if isZero x then (if fsign y then fneg fhalf else fhalf)
  else if isZero y then (if fsign y then fneg fone else fone)
  else intoUnitRange (match num with
    | .reference => if isFinite y && isFinite x then atan2piRef y x else atan2piInf y x
    | .other id => Config.atan2pi id y x)

/-- TW (rule R101): `rnd_F` of the cosine and sine of the turn `-k/N`, for `k` below N/2, in every instance (rule
R12). -/
def twiddleTable (n : Nat) : List Cx := (List.range (n / 2)).map (fun (k : Nat) => cis .reference (-(k : Int)) n)

/-- The rotation table (rule R150), for the given length: `rnd_F` of the cosine and sine of the turn `-f0·n/SR_IN`, in
every instance (rule R12). -/
def rotationTable (f0 : Int) (srIn len : Nat) : List Cx :=
  (List.range len).map (fun (k : Nat) => cis .reference (-(f0 * (k : Int))) srIn)

/-- The four windows, in the order of the window selector (rule R88). -/
inductive Window where
  | boxcar | hann | hamming | blackman
deriving DecidableEq, Repr

/-- The window's selector, which is also its table's number in WROM. -/
def Window.id : Window → Nat
  | .boxcar => 0
  | .hann => 1
  | .hamming => 2
  | .blackman => 3

/-- `num/den` times an enclosure. -/
def timesRatio (c : Prec) (num : Int) (den : Nat) (e : Encl) : Encl := (Encl.ratio c.p num den).mul c.p e

/-- The exact Blackman window at `a = 2π·n/d` (rules R107, R121). -/
def blackmanAt (c : Prec) (n d : Nat) : Encl :=
  ((Encl.ratio c.p 7938 18608).sub (timesRatio c 9240 18608 (cosTurn c n d))).add
    (timesRatio c 1430 18608 (cosTurn c (2 * n : Nat) d))

/-- The windows of rule R107 at `a = 2π·n/d`. -/
def windowAt (w : Window) (c : Prec) (n d : Nat) : Encl :=
  match w with
  | .boxcar => Encl.ratio c.p 1 1
  | .hann => (Encl.ratio c.p 1 2).sub (timesRatio c 1 2 (cosTurn c n d))
  | .hamming => (Encl.ratio c.p 25 46).sub (timesRatio c 21 46 (cosTurn c n d))
  | .blackman => blackmanAt c n d

/-- The window's samples up to the middle; the others are equal to these, the cosines of rule R107 being symmetric. -/
def windowHalf (w : Window) (n2 : Nat) : List Word :=
  tableEntries ((List.range ((n2 + 1) / 2)).map (fun i => [3, w.id, i, n2]))
    (fun c => (List.range ((n2 + 1) / 2)).map (fun i => some (windowAt w c i (n2 - 1))))

/-- WROM[w] (rule R107): `n` entries, the first `n2` the window, each equal to its mirror image, the rest +0. -/
def windowTable (w : Window) (n2 n : Nat) : List Word :=
  let half := windowHalf w n2
  (List.range n2).map (fun i => half.getD (min i (n2 - 1 - i)) fzero) ++ List.replicate (n - n2) fzero

/-- `h(i)` of rule R121 for the cutoff of `u` units and tap count `t`. -/
def lowpassTap (c : Prec) (u t i : Nat) : Option Encl :=
  let win := if t = 1 then Encl.ratio c.p 1 1 else blackmanAt c i (t - 1)
  let k : Int := (i : Int) - ((t - 1) / 2 : Nat)
  (sincRatio c (2 * u * k) (2 ^ 149)).map (fun s => (win.mul c.p (Encl.ratio c.p (2 * u : Nat) (2 ^ 149))).mul c.p s)

/-- The sum of a list of enclosures. -/
def sumEncl : List (Option Encl) → Option Encl
  | [] => some Encl.zero
  | e :: es =>
    match e, sumEncl es with
    | some a, some b => some (a.add b)
    | _, _ => none

/-- The taps up to the centre; the others are equal to these by symmetry (rule R121). -/
def lowpassHalf (c : Prec) (u t : Nat) : List (Option Encl) :=
  (List.range ((t - 1) / 2 + 1)).map (lowpassTap c u t)

/-- The exact sum S of rule R121, from the half of the taps. -/
def lowpassSum (c : Prec) (u t : Nat) : Option Encl :=
  let half := lowpassHalf c u t
  sumEncl ((List.range t).map (fun i => half.getD (min i (t - 1 - i)) none))

/-- The quotients h(i)/S up to the centre. -/
def lowpassQuotients (c : Prec) (u t : Nat) : List (Option Encl) :=
  match lowpassSum c u t with
  | none => (List.range ((t - 1) / 2 + 1)).map (fun _ => none)
  | some s => (lowpassHalf c u t).map (fun h => h.bind (fun e => e.div c.p s))

/-- The exact sum S of rule R121 is 0, as far as the finest enclosure of it tells. -/
def lowpassSumIsZero (f : Word) (t : Nat) : Bool :=
  decide (lowpassSum (Prec.ofBits 256) (magUnits (fmag f)) t = some Encl.zero)

/-- The coefficients up to the centre, `rnd_F(h(i)/S)`. -/
def lowpassCoefHalf (f : Word) (t : Nat) : List Word :=
  tableEntries ((List.range ((t - 1) / 2 + 1)).map (fun i => [4, f.toNat, t, i]))
    (fun c => lowpassQuotients c (magUnits (fmag f)) t)

/-- `LPCOEF(f, T, n)` for every n below T (rules R121, R123), for a positive cutoff `f` and odd `t`: one tap is 1, a
cutoff of 1/2 passes the centre alone, and else the quotients, each tap equal to its mirror image. -/
def lowpassCoefs (f : Word) (t : Nat) : List Word :=
  if t = 1 then [fone]
  else if f = fhalf then (List.range t).map (fun i => if i = (t - 1) / 2 then fone else fzero)
  else
    let half := lowpassCoefHalf f t
    (List.range t).map (fun i => half.getD (min i (t - 1 - i)) fzero)

/-- `pulse(t)` of rule R182 at `t = tn/(2·s)`, an even function, for a BT of `bt` units. -/
def pulseAt (c : Prec) (bt s : Nat) (tn : Int) : Option Encl :=
  -- 1/(σ·√2) = 2π·BT / √(2·ln 2)
  ((timesRatio c (2 * bt : Nat) (2 ^ 149) c.pi).div c.p ((c.ln2.scale 2).sqrt c.p)).bind (fun k =>
    match erfEncl c (timesRatio c (tn + s) (2 * s) k), erfEncl c (timesRatio c (tn - s) (2 * s) k) with
    | some a, some b => some ((a.sub b).divNat 2)
    | _, _ => none)

/-- Header bit `j` as +1 or -1, and 0 outside the header (rule R181). -/
def headerSign (hdr : List Bool) (j : Int) : Int :=
  if j < 0 then 0
  else match hdr[j.toNat]? with
    | none => 0
    | some true => 1
    | some false => -1

/-- The pulses that make template sample `i` (rule R181): how often each pulse position |t|·2·s enters the sum, for
`s` = CFG_SPS. Positions that coincide are taken together, so that opposite pulses cancel exactly. -/
def templateTerms (hdr : List Bool) (s i : Nat) : List (Nat × Int) :=
  let pos := i * 65536 / s
  let tn : Int := 2 * ((i * 65536 : Nat) - (pos * s : Nat) : Int) - s
  let terms : List (Nat × Int) :=
    [(tn.natAbs, headerSign hdr pos), ((tn + 2 * s).natAbs, headerSign hdr (pos - 1)),
      ((tn - 2 * s).natAbs, headerSign hdr (pos + 1))]
  let distinct := (terms.map Prod.fst).eraseDups
  (distinct.map (fun d => (d, ((terms.filter (fun t => t.1 = d)).map Prod.snd).sum))).filter (fun t => t.2 ≠ 0)

/-- `b(i)` of rule R181. -/
def templateSample (c : Prec) (bt s : Nat) (hdr : List Bool) (i : Nat) : Option Encl :=
  sumEncl ((templateTerms hdr s i).map (fun t => (pulseAt c bt s t.1).map (·.scale t.2)))

/-- The quotients `b(i)/√E` of rule R181 for `i` below L. -/
def templateQuotients (c : Prec) (bt s : Nat) (hdr : List Bool) (l : Nat) : List (Option Encl) :=
  let bs := (List.range l).map (templateSample c bt s hdr)
  match sumEncl (bs.map (fun b => b.map (fun e => e.mul c.p e))) with
  | none => bs.map (fun _ => none)
  | some energy => bs.map (fun b => b.bind (fun e => e.div c.p (energy.sqrt c.p)))

/-- MATCH (rule R181): the header `hdr` as a unit-energy waveform of `l` samples. -/
def matchTemplate (bt : Word) (s : Nat) (hdr : List Bool) (l : Nat) : List Word :=
  tableEntries ((List.range l).map (fun i => 5 :: i :: bt.toNat :: s :: hdr.map Bool.toNat))
    (fun c => templateQuotients c (magUnits (fmag bt)) s hdr l)

end Sys2Proof.Machine
end

