-- ==== Sys2Proof/Machine/Operands.lean ====
section
/-! DEFINITION. Every operand form: the selectors of a command word (rule R88), the latched ARG registers by type (rule
R90), the fields of the configuration registers (rules R29 to R33), and positions in circular memories (rule R64). -/

namespace Sys2Proof.Machine

/-! ### Selectors -/

/-- A buffer selector: 0 = X, 1 = Z, 2 = CX (rule R88). -/
def bufferOf (sel : Nibble) : Option MemId :=
  match sel.toNat with
  | 0 => some .x
  | 1 => some .z
  | 2 => some .cx
  | _ => none

/-- A window selector (rule R88). -/
def windowOf (sel : Nibble) : Option Window :=
  match sel.toNat with
  | 0 => some .boxcar
  | 1 => some .hann
  | 2 => some .hamming
  | 3 => some .blackman
  | _ => none

/-- The coefficient banks (rule R42). -/
inductive Bank where
  | decim | iqAcq | iqLock | fm
deriving DecidableEq, Repr

/-- The bank's number. -/
def Bank.id : Bank → Nat
  | .decim => 0
  | .iqAcq => 1
  | .iqLock => 2
  | .fm => 3

/-- A bank selector (rule R88). -/
def bankOf (sel : Nibble) : Option Bank :=
  match sel.toNat with
  | 0 => some .decim
  | 1 => some .iqAcq
  | 2 => some .iqLock
  | 3 => some .fm
  | _ => none

/-! ### Latched arguments -/

/-- ARG0 as u32. -/
def State.arg0Nat (s : State) : Nat := s.latch.r0.toNat

/-- ARG1 as u32. -/
def State.arg1Nat (s : State) : Nat := s.latch.r1.toNat

/-- ARG0 as F bits. -/
def State.arg0F (s : State) : Word := s.latch.r0

/-- ARG0 as s32. -/
def State.arg0Int (s : State) : Int := s32 s.latch.r0

/-- ARG1 as Q15.16: the integer whose 65536th part it is. -/
def State.arg1Q (s : State) : Int := s32 s.latch.r1

/-! ### Configuration -/

/-- A bit of a register. -/
def bitOf (w : Word) (i : Nat) : Bool := w.getLsbD i

/-- CFG_FMT.BPS, bits 5:0 (rule R29). -/
def Cfg.bps (c : Cfg) : Nat := c.fmt.toNat % 64

/-- CFG_FMT.STEREO, bit 8. -/
def Cfg.stereo (c : Cfg) : Bool := bitOf c.fmt 8

/-- CFG_FMT.CHSEL, bit 9. -/
def Cfg.chsel (c : Cfg) : Bool := bitOf c.fmt 9

/-- CFG_MODE.IQ (rule R30). -/
def Cfg.iq (c : Cfg) : Bool := bitOf c.mode 0

/-- CFG_MODE.DEROT. -/
def Cfg.derot (c : Cfg) : Bool := bitOf c.mode 1

/-- CFG_MODE.LP_IQ. -/
def Cfg.lpIq (c : Cfg) : Bool := bitOf c.mode 2

/-- CFG_MODE.LP_FM. -/
def Cfg.lpFm (c : Cfg) : Bool := bitOf c.mode 3

/-- CFG_MODE.DECIM. -/
def Cfg.decim (c : Cfg) : Bool := bitOf c.mode 4

/-- CFG_MODE.DC. -/
def Cfg.dcMode (c : Cfg) : Bool := bitOf c.mode 5

/-- CFG_MODE.CORRDCZ. -/
def Cfg.corrDcz (c : Cfg) : Bool := bitOf c.mode 6

/-- CFG_SYMLEN.SYMLEN, bits 1:0 (rule R33). -/
def Cfg.symbols (c : Cfg) : Nat := c.symLen.toNat % 4

/-- S_TAPSb (rule R42). -/
def Sizes.taps (z : Sizes) : Bank → Nat
  | .decim => z.taps0.toNat
  | .iqAcq => z.taps1.toNat
  | .iqLock => z.taps2.toNat
  | .fm => z.taps3.toNat

/-- S_TAPSb written. -/
def Sizes.setTaps (z : Sizes) (b : Bank) (t : Word) : Sizes :=
  match b with
  | .decim => { z with taps0 := t }
  | .iqAcq => { z with taps1 := t }
  | .iqLock => { z with taps2 := t }
  | .fm => { z with taps3 := t }

/-! ### Circular memories -/

/-- The index of position `p` in a circular memory of S_M entries (rule R64). -/
def State.circ (s : State) (p : Word) : Nat := p.toNat % s.size.m.toNat

/-- BUFS or DCBUF at a position. -/
def State.readAt (s : State) (id : MemId) (p : Word) : Word := s.readWord id (s.circ p)

/-! ### Word indices of the tables (rule R62) -/

/-- The word index of WROM[w][n]. -/
def State.wromIndex (s : State) (w : Window) (n : Nat) : Nat := w.id * s.inst.nMax + n

/-- The word index of COEF[b][n]. -/
def State.coefIndex (s : State) (b : Bank) (n : Nat) : Nat := b.id * (2 * s.inst.tapsMax) + n

end Sys2Proof.Machine
end

