-- ==== Sys2Proof/Machine/Filter.lean ====
section
/-! DEFINITION. The windowed-sinc low-pass: LP_DESIGN (rule R122), the filter function (rule R125), LP_APPLY (rule
R127). -/

namespace Sys2Proof.Machine

/-- The accumulation of rule R125 over a real delay line: `acc + x·c`, entry after entry. -/
def accumulate (xs cs : List Word) : Word :=
  (List.zip xs cs).foldl (fun acc xc => fadd acc (fmul xc.1 xc.2)) fzero

/-- The coefficients that meet entries 0 .. T-1 when the newest entry is at `newest` (rule R125). -/
def State.filterRow (s : State) (b : Bank) (newest t : Nat) : List Word :=
  (List.range t).map (fun i => s.readWord .coef (s.coefIndex b (t - 1 - newest + i)))

/-- `LowPass` over a real delay line (rule R125). -/
def State.lowPassReal (s : State) (line : MemId) (newest t : Nat) (b : Bank) : Word :=
  accumulate (s.readReals line t) (s.filterRow b newest t)

/-- `LowPass` over a complex delay line: both parts with the same coefficients (rule R125). -/
def State.lowPassCx (s : State) (line : MemId) (newest t : Nat) (b : Bank) : Cx :=
  let xs := s.readCxs line t
  let cs := s.filterRow b newest t
  ⟨accumulate (xs.map Cx.re) cs, accumulate (xs.map Cx.im) cs⟩

/-- The command's own rule for one bank selector; a reserved one never passes decoding (rule R92). -/
def withBank (sel : Nibble) (k : Bank → CmdEnd) : CmdEnd :=
  match bankOf sel with
  | some b => k b
  | none => .raise .illegalCommand

/-- The cutoff is in (0, 1/2] (rule R122). -/
def cutoffOk (f : Word) : Bool := !isNaN f && flt fzero f && !fgt f fhalf

/-- The tap count used: the request forced to odd, upward (rule R122). -/
def oddTaps (taps : Nat) : Nat := if taps % 2 = 1 then taps else taps + 1

/-- The coefficients written twice into the bank, and its tap count (rule R122). -/
def State.designBank (s : State) (b : Bank) (f : Word) (t : Nat) : State :=
  let u := s.writeWords .coef (s.coefIndex b 0) (lowpassCoefs f t ++ lowpassCoefs f t)
  { u with size := u.size.setTaps b (BitVec.ofNat 32 t) }

/-- LP_DESIGN (rule R122). -/
def lpDesignBody (bank : Nibble) (t : State) : CmdEnd :=
  withBank bank (fun b =>
    let taps := oddTaps t.arg1Nat
    if cutoffOk t.arg0F = false then .raise .badArgument
    else if t.inst.tapsMax < taps then .ret rcAllocationFailure t
    else if lowpassSumIsZero t.arg0F taps then .raise .badArgument
    else .ret rcOk ((t.designBank b t.arg0F taps).setRes0 (BitVec.ofNat 32 taps)))

/-- The index of the newest entry of a delay line of `t` entries whose next write index is `wp` (rule R127). -/
def newestIndex (wp t : Nat) : Nat := (wp + t - 1) % t

/-- The output of bank `b` on the present contents of its delay line (rule R127). -/
def State.applyBank (s : State) (b : Bank) : Cx :=
  let t := s.size.taps b
  match b with
  | .decim => s.lowPassCx .decbuf (newestIndex s.run.sdec.toNat t) t .decim
  | .iqAcq => s.lowPassCx .lpiq (newestIndex s.run.lpiqWp.toNat t) t .iqAcq
  | .iqLock => s.lowPassCx .lpiq (newestIndex s.run.lpiqWp.toNat t) t .iqLock
  | .fm => ⟨s.lowPassReal .lpfm (newestIndex s.run.lpfmWp.toNat t) t .fm, fzero⟩

/-- LP_APPLY (rule R127). -/
def lpApplyBody (bank : Nibble) (t : State) : CmdEnd :=
  withBank bank (fun b =>
    if t.size.taps b = 0 then .raise .badArgument
    else .ret rcOk (t.setRes01 (t.applyBank b).re (t.applyBank b).im))

/-- LP_DESIGN under the dispatch sequence. -/
def execLpDesign (bank : Nibble) (s : State) : Host.Outcome State Fault Refusal :=
  runCommand (.lpDesign bank) (lpDesignBody bank) s

/-- LP_APPLY under the dispatch sequence. -/
def execLpApply (bank : Nibble) (s : State) : Host.Outcome State Fault Refusal :=
  runCommand (.lpApply bank) (lpApplyBody bank) s

end Sys2Proof.Machine
end

