-- ==== Sys2Proof/Machine/Flags.lean ====
section
/-! DEFINITION. The words in which RS-CORE shows its flags: STATUS (rule R26) and CTRL (rule R25), and the FLAGS field
of RD_HBIT and RD_SBIT (rule R89). No operation of F sets a flag (rules R10, R268). -/

namespace Sys2Proof.Machine

/-- The encoding of STATUS.SESSION (rule R26). -/
def Session.code : Session → Nat
  | .uninit => 0
  | .ready => 1
  | .ended => 2

/-- The encoding of STATUS.DETSTATE (rule R26). -/
def DetState.code : DetState → Nat
  | .searching => 0
  | .peakFound => 1
  | .headerVerified => 2
  | .lost => 3

/-- The word STATUS reads as: BUSY 0, SESSION 2:1, EOS 3, LOST 4, FAULT 5, LOCKED 6, DETSTATE 9:8 (rule R26). -/
def Status.word (t : Status) : Word :=
  BitVec.ofNat 32
    (t.busy.toNat + t.session.code * 2 + t.eos.toNat * 2 ^ 3 + t.lost.toNat * 2 ^ 4 + t.fault.toNat * 2 ^ 5
      + t.locked.toNat * 2 ^ 6 + t.det.code * 2 ^ 8)

/-- The word CTRL reads as: ACTIVE in bit 0 (rule R25). -/
def ctrlWord (active : Bool) : Word := BitVec.ofNat 32 active.toNat

/-- The value a word written to CTRL gives ACTIVE; bits 31:1 are ignored (rule R25). -/
def activeOf (v : Word) : Bool := v.getLsbD 0

/-- The FLAGS of format F (rule R89). -/
structure BitFlags where
  /-- Negate every sample before integrating. -/
  inv : Bool
  /-- Apply the spike suppressor. -/
  spike : Bool
  /-- Subtract register DC from every sample. -/
  dcsub : Bool
  /-- Restart the symbol clock first. -/
  rst : Bool
deriving DecidableEq, Repr

/-- The flags in bits 3:0 of the command word. -/
def flagsOf (f : Nibble) : BitFlags := ⟨f.getLsbD 0, f.getLsbD 1, f.getLsbD 2, f.getLsbD 3⟩

/-- STATUS.DETSTATE written. -/
def State.setDet (s : State) (d : DetState) : State := { s with status := { s.status with det := d } }

/-- STATUS.LOCKED written. -/
def State.setLocked (s : State) (l : Bool) : State := { s with status := { s.status with locked := l } }

/-- End of stream declared: STATUS.EOS = 1, SESSION = ENDED (rule R141). -/
def State.setEos (s : State) : State := { s with status := { s.status with eos := true, session := .ended } }

/-- Signal loss declared: DETSTATE = Lost, STATUS.LOST = 1, SESSION = ENDED (rule R201). -/
def State.setLost (s : State) : State :=
  { s with status := { s.status with det := .lost, lost := true, session := .ended } }

end Sys2Proof.Machine
end

