-- ==== Sys2Proof/Machine/Ingest.lean ====
section
/-! DEFINITION. The sample source (rules R66, R140, R141), sample conversion (R142, R143), the IQ DC estimator (R145,
R146), the rotate-and-decimate path (R149), and RD_SAMPLE and RD_CSAMPLE (R144, R147). A stage answers `none` when it
yields EOS. -/

namespace Sys2Proof.Machine

/-! ### The source -/

/-- A sample of `bytes` little-endian bytes (rule R66). -/
def littleEndian : List Byte → Nat
  | [] => 0
  | b :: bs => b.toNat + 256 * littleEndian bs

/-- The frames of a stream of bytes, for samples of `width` bytes and one or two samples a frame, the first bytes
being the first sample's; a frame cut short at the end is discarded (rule R66). `fuel` bounds the number of frames. -/
def framesOfBytes (width : Nat) (stereo : Bool) : Nat → List Byte → List Frame
  | 0, _ => []
  | fuel + 1, bs =>
    let size := if stereo then 2 * width else width
    if size = 0 ∨ bs.length < size then []
    else
      let r0 := BitVec.ofNat 32 (littleEndian (bs.take width))
      let r1 := if stereo then BitVec.ofNat 32 (littleEndian ((bs.drop width).take width)) else 0#32
      ⟨r0, r1⟩ :: framesOfBytes width stereo fuel (bs.drop size)

/-- Frame `k` of the sequence (rule R140). -/
def Source.frame (src : Source) (k : Nat) : Frame :=
  match src.frames[k]? with
  | some f => f
  | none => ⟨(Config.laterFrame k).1, (Config.laterFrame k).2⟩

/-- The SOURCE has at least `n` frames left. -/
def State.framesLeft (s : State) (n : Nat) : Bool :=
  s.source.endless || decide (s.srcPos + n ≤ s.source.frames.length)

/-- `Pull(n)` (rule R141): all `n` frames, or EOS. -/
def pull (n : Nat) (s : State) : Option (List Frame) × State :=
  if s.status.eos then (none, s)
  else if s.framesLeft n then
    (some ((List.range n).map (fun k => s.source.frame (s.srcPos + k))), { s with srcPos := s.srcPos + n })
  else (none, { s with srcPos := s.source.frames.length }.setEos)

/-- `Pull(1)`. -/
def pullOne (s : State) : Option Frame × State :=
  match pull 1 s with
  | (some (f :: _), t) => (some f, t)
  | (_, t) => (none, t)

/-! ### Conversion -/

/-- The value 128.0. -/
def f128 : Word := 0x43000000#32
/-- The value 32768.0. -/
def f32768 : Word := 0x47000000#32

/-- `Conv(raw)` (rule R142) of the low `bps` bits of a raw sample. -/
def convSample (bps : Nat) (raw : Word) : Word :=
  if bps = 8 then fdiv (i2f ((raw.toNat % 2 ^ 8 : Nat) - 128 : Int)) f128
  else if bps = 16 then fdiv (i2f (raw.setWidth 16).toInt) f32768
  else raw

/-- `ReadReal(frame)` (rule R143). -/
def State.readReal (s : State) (f : Frame) : Word :=
  convSample s.cfg.bps (if s.cfg.stereo && s.cfg.chsel then f.r1 else f.r0)

/-! ### The IQ DC estimator -/

/-- IQDC_MAXLIM = SR · S_DECM (rule R48). -/
def State.iqdcLimit (s : State) : Nat := s.cfg.sr.toNat * s.size.decm.toNat

/-- The estimator after the last sample of a window (rule R146), `x` and `y` being the window's sums. -/
def State.closeWindow (s : State) (x y : Word) : State :=
  let n := s.run.iqdcMaxCnt
  { s with
    run := { s.run with
      iqdcAvgX := fdiv x (i2f n.toNat)
      iqdcAvgY := fdiv y (i2f n.toNat)
      iqdcSumX := fzero
      iqdcSumY := fzero
      iqdcCnt := 0#32
      iqdcMaxCnt := if n.toNat < s.iqdcLimit then n + n else n } }

/-- `IQDCUpdate(x, y)` (rule R146). -/
def State.iqdcUpdate (s : State) (x y : Word) : State :=
  let sx := fadd s.run.iqdcSumX x
  let sy := fadd s.run.iqdcSumY y
  let cnt := s.run.iqdcCnt + 1#32
  if cnt = s.run.iqdcMaxCnt then s.closeWindow sx sy
  else { s with run := { s.run with iqdcSumX := sx, iqdcSumY := sy, iqdcCnt := cnt } }

/-- `ReadComplex(frame)` (rule R145): the estimate subtracted is the one from before the sample. -/
def State.readComplex (s : State) (f : Frame) : Cx × State :=
  let x := convSample s.cfg.bps f.r0
  let y := convSample s.cfg.bps f.r1
  (⟨fsub x s.run.iqdcAvgX, fsub y s.run.iqdcAvgY⟩, s.iqdcUpdate x y)

/-! ### Rotation and decimation -/

/-- One raw frame through the rotator into the decimation buffer (rule R149). -/
def State.rotateIn (s : State) (f : Frame) : State :=
  let t0 := s.size.taps0.toNat
  let r := s.size.rotLen.toNat
  let (raw, t) := s.readComplex f
  let u := t.writeCxs .decbuf (t.run.sdec.toNat % t0) [cmul raw (t.readCx .rot (t.run.sdec.toNat % r))]
  { u with run := { u.run with sdec := BitVec.ofNat 32 ((u.run.sdec.toNat + 1) % (t0 * r)) } }

/-- `AcquireDecim()` (rule R149): all S_DECM frames, or EOS and nothing written. -/
def acquireDecim (s : State) : Option Cx × State :=
  match pull s.size.decm.toNat s with
  | (none, t) => (none, t)
  | (some fs, t) =>
    let u := fs.foldl State.rotateIn t
    let t0 := u.size.taps0.toNat
    (some (u.lowPassCx .decbuf (newestIndex u.run.sdec.toNat t0) t0 .decim), u)

/-- `Acquire()` (rule R151). -/
def acquire (s : State) : Option Cx × State :=
  if s.cfg.decim then acquireDecim s
  else match pullOne s with
    | (some f, t) => (some (t.readComplex f).1, (t.readComplex f).2)
    | (none, t) => (none, t)

/-! ### Commands -/

/-- RD_SAMPLE (rule R144). -/
def rdSampleBody (t : State) : CmdEnd :=
  if t.status.session = .ended then .ret (endedCode t) t
  else match pullOne t with
    | (some f, u) => .ret rcOk (u.setRes0 (u.readReal f))
    | (none, u) => .ret rcEndOfStream u

/-- RD_CSAMPLE (rule R147). -/
def rdCsampleBody (t : State) : CmdEnd :=
  if t.cfg.stereo = false then .raise .badState
  else if t.status.session = .ended then .ret (endedCode t) t
  else match pullOne t with
    | (some f, u) => .ret rcOk ((u.readComplex f).2.setRes01 (u.readComplex f).1.re (u.readComplex f).1.im)
    | (none, u) => .ret rcEndOfStream u

/-- RD_SAMPLE under the dispatch sequence. -/
def execRdSample (s : State) : Host.Outcome State Fault Refusal := runCommand .rdSample rdSampleBody s

/-- RD_CSAMPLE under the dispatch sequence. -/
def execRdCsample (s : State) : Host.Outcome State Fault Refusal := runCommand .rdCsample rdCsampleBody s

end Sys2Proof.Machine
end

