-- ==== Sys2Proof/Machine/Demod.lean ====
section
/-! DEFINITION. The sample step DemodStep (rule R160) with its stages (R163 to R167), the carrier-tracking loop (R169,
R170), and DEMOD_STEP (R161). -/

namespace Sys2Proof.Machine

/-- `Derot(n)` (rule R163): `CIS(frac(-DF·n/SR))` with DF the exact rational its bits denote; NaNs if DF is not
finite. -/
def State.derot (s : State) (n : Word) : Cx :=
  if isFinite s.run.df then cis s.inst.num (-(units s.run.df * n.toNat)) (s.cfg.sr.toNat * 2 ^ 149)
  else ⟨nanOf .angle s.run.df n, nanOf .angle n s.run.df⟩

/-- De-rotation, if enabled (rules R160, R163). -/
def State.derotated (s : State) (n : Word) (z : Cx) : Cx := if s.cfg.derot then cmul z (s.derot n) else z

/-- The IQ bank that STATUS.LOCKED selects (rule R164). -/
def State.iqBank (s : State) : Bank := if s.status.locked then .iqLock else .iqAcq

/-- `IFLowPass(z)` (rule R164). -/
def State.ifLowPass (s : State) (z : Cx) : Cx × State :=
  let t := s.size.taps1.toNat
  let wp := s.run.lpiqWp.toNat
  let u := s.writeCxs .lpiq wp [z]
  (u.lowPassCx .lpiq wp t s.iqBank, { u with run := { u.run with lpiqWp := BitVec.ofNat 32 ((wp + 1) % t) } })

/-- The IF low-pass, if enabled. -/
def State.ifStage (s : State) (z : Cx) : Cx × State := if s.cfg.lpIq then s.ifLowPass z else (z, s)

/-- The discriminator's output for the sample `z` after the sample `z0` (rule R165). -/
def State.discriminator (s : State) (z z0 : Cx) : Word :=
  let w := cmul z (conj z0)
  fmul s.inst.gain (atan2pi s.inst.num w.im w.re)

/-- `Discriminate(z, n)` (rule R165). -/
def State.discriminate (s : State) (z : Cx) (n : Word) : Word × State :=
  (s.discriminator z (s.readCx .iqbuf (s.circ (n - 1#32))), s.writeCxs .iqbuf (s.circ n) [z])

/-- `FMLowPass(v)` (rule R167). -/
def State.fmLowPass (s : State) (v : Word) : Word × State :=
  let t := s.size.taps3.toNat
  let wp := s.run.lpfmWp.toNat
  let u := s.writeWords .lpfm wp [v]
  (u.lowPassReal .lpfm wp t .fm, { u with run := { u.run with lpfmWp := BitVec.ofNat 32 ((wp + 1) % t) } })

/-- The FM low-pass, if enabled. -/
def State.fmStage (s : State) (v : Word) : Word × State := if s.cfg.lpFm then s.fmLowPass v else (v, s)

/-- The stages of a sample step in IQ mode after the acquisition of `z` (rule R160). -/
def State.iqStages (s : State) (n : Word) (z : Cx) : Word × State :=
  let (y, t) := s.ifStage (s.derotated n z)
  let (v, u) := t.discriminate y n
  (u.writeWords .dcbuf (u.circ n) [v]).fmStage v

/-- The end of a sample step: BUFS[n mod M] <- v and the two counters (rules R160, R171). -/
def State.appendSample (s : State) (n v : Word) : State :=
  let t := s.writeWords .bufs (s.circ n) [v]
  { t with run := { t.run with sampleOut := n - t.cfg.delay, sampleIn := n + 1#32 } }

/-- `DemodStep()` (rule R160). -/
def demodStep (s : State) : Option Word × State :=
  let n := s.run.sampleIn
  if s.cfg.iq then
    match acquire s with
    | (none, t) => (none, t)
    | (some z, t) =>
      let (v, u) := t.iqStages n z
      (some v, u.appendSample n v)
  else
    match pullOne s with
    | (none, t) => (none, t)
    | (some f, t) => (some (t.readReal f), t.appendSample n (t.readReal f))

/-- `LockUpdate()` (rule R170), on the value of LOCKED before it. -/
def State.lockUpdate (s : State) : State :=
  let a := fabs s.run.ddf
  if s.status.locked && fgt a s.inst.fLock then s.setLocked false
  else if !s.status.locked && flt a s.inst.fLock then s.setLocked true
  else s

/-- `CarrierUpdate()` (rule R169). -/
def State.carrierUpdate (s : State) : State :=
  { s with run := { s.run with df := fadd s.run.df (fmul s.cfg.loopg s.run.ddf) } }.lockUpdate

/-- DEMOD_STEP (rule R161). -/
def demodStepBody (t : State) : CmdEnd :=
  if t.status.session = .ended then .ret (endedCode t) t
  else match demodStep t with
    | (some v, u) => .ret rcOk (u.setRes0 v)
    | (none, u) => .ret rcEndOfStream u

/-- DEMOD_STEP under the dispatch sequence. -/
def execDemodStep (s : State) : Host.Outcome State Fault Refusal := runCommand .demodStep demodStepBody s

end Sys2Proof.Machine
end

