-- ==== Sys2Proof/Machine/HostPort.lean ====
section
/-! DEFINITION. The host window: the register map (rule R23), the memory map (rule R62), the access rules (rules R67 to
R74) and the HostAccess faults (rule R255). -/

namespace Sys2Proof.Machine

/-- The word ID reads as (rule R24). -/
def idWord : Word := 0x52530007#32

/-- What the register at an offset of region 0 reads as; CMD and reserved offsets read 0 (rule R23). -/
def State.readReg (s : State) (off : Nat) : Word :=
  match off with
  | 0x000 => idWord
  | 0x004 => ctrlWord s.active
  | 0x008 => s.status.word
  | 0x00C => 0#32
  | 0x010 => s.result
  | 0x014 => s.fcause
  | 0x018 => s.finfo
  | 0x020 => s.arg.r0
  | 0x024 => s.arg.r1
  | 0x028 => s.arg.r2
  | 0x02C => s.arg.r3
  | 0x030 => s.res.r0
  | 0x034 => s.res.r1
  | 0x038 => s.res.r2
  | 0x03C => s.res.r3
  | 0x040 => s.cfg.sr
  | 0x044 => s.cfg.fmt
  | 0x048 => s.cfg.mode
  | 0x04C => s.cfg.sps
  | 0x050 => s.cfg.hdrLen
  | 0x054 => s.cfg.symLen
  | 0x058 => s.cfg.bt
  | 0x05C => s.cfg.k
  | 0x060 => s.cfg.delay
  | 0x064 => s.cfg.decm
  | 0x068 => s.cfg.rotf
  | 0x06C => s.cfg.rotw
  | 0x070 => s.cfg.gdelay
  | 0x074 => s.cfg.loopg
  | 0x080 => s.size.n
  | 0x084 => s.size.log2n
  | 0x088 => s.size.m
  | 0x08C => s.size.l
  | 0x090 => s.size.k
  | 0x094 => s.size.rotLen
  | 0x098 => s.size.taps0
  | 0x09C => s.size.taps1
  | 0x0A0 => s.size.taps2
  | 0x0A4 => s.size.taps3
  | 0x0A8 => s.size.decm
  | 0x0C0 => s.run.sampleIn
  | 0x0C4 => s.run.sampleOut
  | 0x0C8 => s.run.mv
  | 0x0CC => s.run.mvPos
  | 0x0D0 => s.run.dc
  | 0x0D4 => s.run.df
  | 0x0D8 => s.run.ddf
  | 0x0DC => s.run.buffered
  | 0x0E0 => s.run.sc
  | 0x0E4 => s.run.bg.extractLsb' 0 32
  | 0x0E8 => (s.run.bg.extractLsb' 32 16).setWidth 32
  | 0x0EC => s.run.nosig
  | 0x0F0 => s.run.kcnt
  | 0x0F4 => s.run.sdec
  | 0x0F8 => s.run.iqdcCnt
  | 0x0FC => s.run.iqdcMaxCnt
  | 0x100 => s.run.iqdcSumX
  | 0x104 => s.run.iqdcSumY
  | 0x108 => s.run.iqdcAvgX
  | 0x10C => s.run.iqdcAvgY
  | 0x110 => s.run.lpiqWp
  | 0x114 => s.run.lpfmWp
  | _ => 0#32

/-- The CFG registers with the one at an offset written (rule R23). -/
def Cfg.write (c : Cfg) (off : Nat) (v : Word) : Option Cfg :=
  match off with
  | 0x040 => some { c with sr := v }
  | 0x044 => some { c with fmt := v }
  | 0x048 => some { c with mode := v }
  | 0x04C => some { c with sps := v }
  | 0x050 => some { c with hdrLen := v }
  | 0x054 => some { c with symLen := v }
  | 0x058 => some { c with bt := v }
  | 0x05C => some { c with k := v }
  | 0x060 => some { c with delay := v }
  | 0x064 => some { c with decm := v }
  | 0x068 => some { c with rotf := v }
  | 0x06C => some { c with rotw := v }
  | 0x070 => some { c with gdelay := v }
  | 0x074 => some { c with loopg := v }
  | _ => none

/-- The effect of a HOST write to an ARG register (rule R21). -/
def State.writeArg (s : State) (off : Nat) (v : Word) : Option State :=
  match off with
  | 0x020 => some { s with arg := { s.arg with r0 := v } }
  | 0x024 => some { s with arg := { s.arg with r1 := v } }
  | 0x028 => some { s with arg := { s.arg with r2 := v } }
  | 0x02C => some { s with arg := { s.arg with r3 := v } }
  | _ => none

/-- A word of the memory map (rule R62): which memory, which word of it, and whether it lies within the instance's
capacity and within what the session uses. -/
structure MapWord where
  id : MemId
  idx : Nat
  inCapacity : Bool
  inSession : Bool
deriving DecidableEq, Repr

/-- A word of a memory whose capacity and valid length are given in words. -/
def plainWord (id : MemId) (idx capacity valid : Nat) : Option MapWord :=
  some ⟨id, idx, decide (idx < capacity), decide (idx < valid)⟩

/-- The bank a word of COEF belongs to. -/
def bankAt (n : Nat) : Bank :=
  match n with
  | 0 => .decim
  | 1 => .iqAcq
  | 2 => .iqLock
  | _ => .fm

/-- The memory word at an offset of regions 0x1 to 0xE; none in a reserved region or sub-region (rule R62). -/
def State.mapWord (s : State) (off : Nat) : Option MapWord :=
  let b := off % 2 ^ 24
  let i := b / 4
  let nMax := s.inst.nMax
  let taps := s.inst.tapsMax
  let n := s.size.n.toNat
  let m := s.size.m.toNat
  match off / 2 ^ 24 with
  | 0x1 => plainWord .hdr i s.inst.hdrMax s.inst.hdrMax
  | 0x2 => plainWord .xn i nMax n
  | 0x3 => plainWord .x i (2 * nMax) (2 * n)
  | 0x4 => plainWord .z i (2 * nMax) (2 * n)
  | 0x5 => plainWord .cx i (2 * nMax) (2 * n)
  | 0x6 => plainWord .fm i (2 * nMax) (2 * n)
  | 0x7 => plainWord .tw i nMax n
  | 0x8 => some ⟨.wrom, i, decide (i < 4 * nMax), decide (i % nMax < n)⟩
  | 0x9 => some ⟨.coef, i, decide (i < 8 * taps), decide (i % (2 * taps) < 2 * s.size.taps (bankAt (i / (2 * taps))))⟩
  | 0xA => plainWord .bufs i nMax m
  | 0xB => plainWord .dcbuf i nMax m
  | 0xC => plainWord .iqbuf i (2 * nMax) (2 * m)
  | 0xD =>
    let j := b % 2 ^ 22 / 4
    match b / 2 ^ 22 with
    | 0 => plainWord .lpiq j (2 * taps) (2 * s.size.taps1.toNat)
    | 1 => plainWord .lpfm j taps s.size.taps3.toNat
    | 2 => plainWord .decbuf j (2 * taps) (2 * s.size.taps0.toNat)
    | _ => none
  | 0xE =>
    let j := b % 2 ^ 23 / 4
    match b / 2 ^ 23 with
    | 0 => plainWord .matchT j nMax s.size.l.toNat
    | _ => plainWord .rot j (2 * s.inst.rotMax) (2 * s.size.rotLen.toNat)
  | _ => none

/-- What a memory word reads as: 0 beyond the capacity, any value beyond the session's valid length or where nothing
has been written since reset; an HDR word has one bit (rule R62, U1). -/
def State.readMapWord (s : State) (w : MapWord) : Word :=
  if w.inCapacity = false then 0#32
  else
    let v := if w.inSession then s.readWord w.id w.idx else Config.freeWord s.free w.id.id w.idx
    if w.id = .hdr then v &&& 1#32 else v

/-- What an aligned 32-bit read at a window offset returns (rules R23, R62). -/
def State.windowRead (s : State) (off : Nat) : Word :=
  if off < 2 ^ 24 then s.readReg off
  else match s.mapWord off with
    | none => 0#32
    | some w => s.readMapWord w

/-- Which session state allows the HOST to write a memory (rule R62). -/
def hostWritable (id : MemId) (session : Session) : Bool :=
  match id with
  | .hdr => decide (session = .uninit)
  | .xn => decide (session = .ready)
  | .x => decide (session = .ready)
  | .z => decide (session = .ready)
  | .cx => decide (session = .ready)
  | .fm => false
  | .tw => false
  | .wrom => false
  | .coef => false
  | .bufs => false
  | .dcbuf => false
  | .iqbuf => false
  | .lpiq => false
  | .lpfm => false
  | .decbuf => false
  | .matchT => false
  | .rot => false

/-- A HOST access that is forbidden (rules R255, R257): recorded with its offset, RESULT left alone. -/
def State.hostFault (s : State) (off : Nat) : State := s.raiseFault .hostAccess (BitVec.ofNat 32 off)

/-- The offset of CTRL. -/
def ctrlOffset : Nat := 0x004
/-- The offset of STATUS. -/
def statusOffset : Nat := 0x008
/-- The offset of CMD. -/
def cmdOffset : Nat := 0x00C

/-- The effect of a write to region 0 other than CMD: CTRL, an ARG register, a CFG register in UNINIT; none where it
is forbidden (rules R23, R255). -/
def State.writeReg (s : State) (off : Nat) (v : Word) : Option State :=
  if off = ctrlOffset then some { s with active := activeOf v }
  else match s.writeArg off v with
    | some t => some t
    | none =>
      if s.status.session = .uninit then (s.cfg.write off v).map (fun c => { s with cfg := c }) else none

/-- The effect of a write to a memory word; none where it is forbidden (rules R62, R255). -/
def State.writeMapWord (s : State) (w : MapWord) (v : Word) : Option State :=
  if w.inCapacity && hostWritable w.id s.status.session then
    some (s.writeWords w.id w.idx [if w.id = .hdr then v &&& 1#32 else v])
  else none

/-- The effect of an aligned 32-bit write at a window offset, other than to CMD; none where it is forbidden. -/
def State.windowWrite (s : State) (off : Nat) (v : Word) : Option State :=
  if off < 2 ^ 24 then s.writeReg off v
  else (s.mapWord off).bind (fun w => s.writeMapWord w v)

/-- An access of a form that is never allowed (rule R67), or that is not allowed while a command runs (rule R74). -/
def State.accessForbidden (s : State) (width off : Nat) (allowedWhileBusy : Bool) : Bool :=
  decide (width ≠ 4) || decide (off % 4 ≠ 0) || (s.status.busy && !allowedWhileBusy)

/-- The data a read has returned. -/
def State.pushRead (s : State) (v : Word) : State := { s with hostReads := v :: s.hostReads }

/-- A HOST read at a window offset. -/
def State.hostRead (s : State) (width off : Nat) : State :=
  if s.accessForbidden width off (decide (off = statusOffset) || decide (off = ctrlOffset)) then
    ((s.hostFault off).pushRead (Config.faultingRead s.free)).fresh
  else (s.pushRead (s.windowRead off)).fresh

/-- A HOST write at a window offset that starts no command. -/
def State.hostWrite (s : State) (width off : Nat) (v : Word) : State :=
  if s.accessForbidden width off (decide (off = ctrlOffset)) then s.hostFault off
  else match s.windowWrite off v with
    | some t => t
    | none => s.hostFault off

/-- The write starts a command: an aligned 32-bit write to CMD while BUSY = 0 (rules R69, R85). -/
def State.startsCommand (s : State) (width off : Nat) : Bool :=
  decide (width = 4) && decide (off = cmdOffset) && !s.status.busy

/-- The platform address lies in this block's window (rule R61). -/
def State.selected (s : State) (addr : Nat) : Bool := decide (addr / 2 ^ 28 = s.inst.base / 2 ^ 28)

/-- The window offset of a platform address. -/
def offsetOf (addr : Nat) : Nat := addr % 2 ^ 28

/-- A bus read; nothing happens here if it is not for this block. -/
def State.busRead (s : State) (width addr : Nat) : State :=
  if s.selected addr then s.hostRead width (offsetOf addr) else s

/-- A bus write that starts no command. -/
def State.busWrite (s : State) (width addr : Nat) (v : Word) : State :=
  if s.selected addr then s.hostWrite width (offsetOf addr) v else s

/-- HOST events while a command runs (rule R74). Hardware reset abandons the command; what the HOST does after it in
the same moment it does to the idle block (rule R281). -/
def duringEvents : List HostEvent → State → Flow Unit
  | [], s => .done () s
  | .read width addr :: rest, s => duringEvents rest (s.busRead width addr)
  | .write width addr v :: rest, s => duringEvents rest (s.busWrite width addr v)
  | .hardReset :: rest, s => .reset { s.hardwareReset with host := rest ++ s.host }

/-- The moment before a sample step of FIND_HDR, RD_HBIT or RD_SBIT, in which the HOST can act (rule R16). -/
def hostMoment (s : State) : Flow Unit :=
  match s.during with
  | [] => .done () s
  | events :: later => duringEvents events { s with during := later }

end Sys2Proof.Machine
end

