-- ==== Sys2Proof/Machine/Transform.lean ====
section
/-! DEFINITION. The transform engine (rules R102, R103) and its commands FFT_R, FFT_C, IFFT_N, WIN_R, WIN_C, CMUL
(rules R104 to R110). -/

namespace Sys2Proof.Machine

/-- Entry `i` of a buffer held as a list. -/
def cxAt (b : List Cx) (i : Nat) : Cx := b.getD i czero

/-- `rev(i)`: the low `bits` bits of `i` in reverse order (rule R102). -/
def reverseBits : Nat → Nat → Nat
  | 0, _ => 0
  | k + 1, i => i % 2 * 2 ^ k + reverseBits k (i / 2)

/-- Two entries exchanged if the first index is the smaller (rule R102). -/
def exchange (b : List Cx) (i j : Nat) : List Cx :=
  if i < j then (b.set i (cxAt b j)).set j (cxAt b i) else b

/-- The bit-reversal permutation of `n` entries (rule R102). -/
def bitReversal (log2n n : Nat) (b : List Cx) : List Cx :=
  (List.range n).foldl (fun acc i => exchange acc i (reverseBits log2n i)) b

/-- One butterfly on entries `i` and `i+h` (rule R103). -/
def butterfly (b : List Cx) (i h : Nat) (w : Cx) : List Cx :=
  let t := cmul (cxAt b (i + h)) w
  (b.set (i + h) (csub (cxAt b i) t)).set i (cadd (cxAt b i) t)

/-- The butterflies of one pass that share the twiddle TW[j·stride]: i = j, j+2h, ... below `n` (rule R103). -/
def butterfliesAt (tw : List Cx) (n h : Nat) (b : List Cx) (j : Nat) : List Cx :=
  let w := cxAt tw (j * (n / (2 * h)))
  (List.range (n / (2 * h))).foldl (fun acc m => butterfly acc (j + 2 * h * m) h w) b

/-- Pass `p` (rule R103), with half the butterfly span 2^p. -/
def fftPass (tw : List Cx) (n : Nat) (b : List Cx) (p : Nat) : List Cx :=
  (List.range (2 ^ p)).foldl (butterfliesAt tw n (2 ^ p)) b

/-- `FFTCore` of rule R103: the in-place forward transform of `n = 2^log2n` entries. -/
def fftCore (tw : List Cx) (log2n n : Nat) (b : List Cx) : List Cx :=
  (List.range log2n).foldl (fftPass tw n) (bitReversal log2n n b)

/-- The session's transform size N = S_N (rule R100). -/
def State.nSize (s : State) : Nat := s.size.n.toNat

/-- `FFTCore` with the session's N, LOG2N and twiddle ROM (rule R100). -/
def State.transform (s : State) (b : List Cx) : List Cx :=
  fftCore (s.readCxs .tw (s.nSize / 2)) s.size.log2n.toNat s.nSize b

/-- XN[0 .. len-1] as complex numbers, zero-padded to N (rule R104). -/
def State.paddedFrame (s : State) (len : Nat) : List Cx :=
  (List.range s.nSize).map (fun i => if i < len then ⟨s.readWord .xn i, fzero⟩ else czero)

/-- A complex buffer's first `len` entries, zero-padded to N (rule R105). -/
def State.paddedBuffer (s : State) (src : MemId) (len : Nat) : List Cx :=
  (List.range s.nSize).map (fun i => if i < len then s.readCx src i else czero)

/-- The forward transform of the real frame into `dst` (rule R104). -/
def State.forwardReal (s : State) (dst : MemId) (len : Nat) : State :=
  s.writeCxs dst 0 (s.transform (s.paddedFrame len))

/-- The unscaled inverse of rule R106: conjugate, then transform. -/
def State.inverse (s : State) (dst src : MemId) : State :=
  s.writeCxs dst 0 (s.transform ((s.readCxs src s.nSize).map conj))

/-- The product of two spectra, entry by entry (rules R110, R190). -/
def State.spectrumProduct (s : State) (dst src : MemId) : State :=
  s.writeCxs dst 0 (List.zipWith cmul (s.readCxs src s.nSize) (s.readCxs .fm s.nSize))

/-- The first N entries of WROM[w]. -/
def State.windowRow (s : State) (w : Window) : List Word :=
  (List.range s.nSize).map (fun i => s.readWord .wrom (s.wromIndex w i))

/-- The command's own rule for one buffer selector; a reserved one never passes decoding (rule R92). -/
def withBuffer (sel : Nibble) (k : MemId → CmdEnd) : CmdEnd :=
  match bufferOf sel with
  | some b => k b
  | none => .raise .illegalCommand

/-- The same for a window selector. -/
def withWindow (sel : Nibble) (k : Window → CmdEnd) : CmdEnd :=
  match windowOf sel with
  | some w => k w
  | none => .raise .illegalCommand

/-- FFT_R (rule R104). -/
def fftRBody (dst : Nibble) (t : State) : CmdEnd :=
  withBuffer dst (fun d =>
    if t.nSize < t.arg0Nat then .raise .badArgument else .ret rcOk (t.forwardReal d t.arg0Nat))

/-- FFT_C (rule R105). -/
def fftCBody (dst src : Nibble) (t : State) : CmdEnd :=
  withBuffer dst (fun d => withBuffer src (fun b =>
    if t.nSize < t.arg0Nat then .raise .badArgument
    else .ret rcOk (t.writeCxs d 0 (t.transform (t.paddedBuffer b t.arg0Nat)))))

/-- IFFT_N (rule R106). -/
def ifftNBody (dst src : Nibble) (t : State) : CmdEnd :=
  withBuffer dst (fun d => withBuffer src (fun b => .ret rcOk (t.inverse d b)))

/-- WIN_R (rule R108). -/
def winRBody (wsel : Nibble) (t : State) : CmdEnd :=
  withWindow wsel (fun w =>
    .ret rcOk (t.writeWords .xn 0 (List.zipWith fmul (t.readReals .xn t.nSize) (t.windowRow w))))

/-- WIN_C (rule R109). -/
def winCBody (dst wsel : Nibble) (t : State) : CmdEnd :=
  withBuffer dst (fun d => withWindow wsel (fun w =>
    .ret rcOk (t.writeCxs d 0 (List.zipWith cscale (t.readCxs d t.nSize) (t.windowRow w)))))

/-- CMUL (rule R110). -/
def cmulBody (dst src : Nibble) (t : State) : CmdEnd :=
  withBuffer dst (fun d => withBuffer src (fun b => .ret rcOk (t.spectrumProduct d b)))

/-- FFT_R under the dispatch sequence. -/
def execFftR (dst : Nibble) (s : State) : Host.Outcome State Fault Refusal :=
  runCommand (.fftR dst) (fftRBody dst) s

/-- FFT_C under the dispatch sequence. -/
def execFftC (dst src : Nibble) (s : State) : Host.Outcome State Fault Refusal :=
  runCommand (.fftC dst src) (fftCBody dst src) s

/-- IFFT_N under the dispatch sequence. -/
def execIfftN (dst src : Nibble) (s : State) : Host.Outcome State Fault Refusal :=
  runCommand (.ifftN dst src) (ifftNBody dst src) s

/-- WIN_R under the dispatch sequence. -/
def execWinR (wsel : Nibble) (s : State) : Host.Outcome State Fault Refusal :=
  runCommand (.winR wsel) (winRBody wsel) s

/-- WIN_C under the dispatch sequence. -/
def execWinC (dst wsel : Nibble) (s : State) : Host.Outcome State Fault Refusal :=
  runCommand (.winC dst wsel) (winCBody dst wsel) s

/-- CMUL under the dispatch sequence. -/
def execCmul (dst src : Nibble) (s : State) : Host.Outcome State Fault Refusal :=
  runCommand (.cmul dst src) (cmulBody dst src) s

end Sys2Proof.Machine
end

