-- ==== Sys2Proof/Machine/Correlator.lean ====
section
/-! DEFINITION. The correlation pass (rules R185 to R193), the correlation step (R194 to R197), header verification
(R198), and CORR_STEP, HEADCMP and FIND_HDR (R186, R198, R200 to R202). -/

namespace Sys2Proof.Machine

/-! ### The correlation pass -/

/-- S_L (rule R180). -/
def State.lSize (s : State) : Nat := s.size.l.toNat

/-- The window length K+L of rule R187. -/
def State.windowLen (s : State) : Nat := s.size.k.toNat + s.lSize

/-- The absolute position of window index `i`: pos - (K+L-1) + i (rule R187). -/
def State.windowPos (s : State) (i : Nat) : Word :=
  s.run.sampleOut - BitVec.ofNat 32 (s.windowLen - 1) + BitVec.ofNat 32 i

/-- The frame of rule R187, zero-padded to N. -/
def State.windowFrame (s : State) (buf : MemId) : List Word :=
  (List.range s.nSize).map (fun i => if i < s.windowLen then s.readAt buf (s.windowPos i) else fzero)

/-- Step 1 (rule R187). -/
def State.extract (s : State) (buf : MemId) : State :=
  (s.writeWords .xn 0 (s.windowFrame buf)).forwardReal .x s.nSize

/-- The mean of the window (rule R188). -/
def State.windowMean (s : State) : Word := fdiv (s.readCx .x 0).re (i2f s.windowLen)

/-- DC removal (rule R188): bin 0 cleared, the time signal rebuilt in XN. -/
def State.removeDc (s : State) : State :=
  let t := (s.writeCxs .x 0 [czero]).inverse .cx .x
  t.writeWords .xn 0 ((t.readCxs .cx t.nSize).map (fun c => fdiv c.re (i2f t.nSize)))

/-- Step 3 (rule R190). -/
def State.correlate (s : State) : State := (s.spectrumProduct .z .x).inverse .cx .z

/-- The running maximum of rule R191: the correlation value, its square, its window index. -/
structure Peak where
  mx : Word
  mx2 : Word
  mp : Option Nat
deriving DecidableEq, Repr

/-- The search of rule R191 seeing the value `re` at index `i`: only a strictly larger square wins. -/
def Peak.see (p : Peak) (i : Nat) (re : Word) : Peak :=
  if fgt (fmul re re) p.mx2 then ⟨re, fmul re re, some i⟩ else p

/-- Step 4's search over the window indices L-1 to K+L-1 (rule R191). -/
def State.findPeak (s : State) : Peak :=
  (List.range (s.size.k.toNat + 1)).foldl
    (fun p j => p.see (s.lSize - 1 + j) (s.readCx .cx (s.lSize - 1 + j)).re) ⟨fzero, fzero, none⟩

/-- The energy of the L samples that end at window index `mp` (rule R193). -/
def State.localEnergy (s : State) (mp : Nat) : Word :=
  (List.range s.lSize).foldl
    (fun acc i => fadd acc (fmul (s.readWord .xn (mp - i)) (s.readWord .xn (mp - i)))) fzero

/-- Step 5 (rule R193). -/
def State.score (s : State) (mx : Word) (mp : Nat) : Word :=
  fdiv mx (fmul (fsqrt (s.localEnergy mp)) (i2f s.nSize))

/-- What a pass yields (rule R185). -/
inductive PassResult where
  | noPeak (dc : Word)
  | boundary (dc : Word) (mp : Nat)
  | ok (dc : Word) (mp : Nat) (mpos score : Word)
deriving DecidableEq, Repr

/-- The measured DC bias of a pass. -/
def PassResult.dc : PassResult → Word
  | .noPeak dc => dc
  | .boundary dc _ => dc
  | .ok dc _ _ _ => dc

/-- The pass is `Ok` with a score above the threshold (rules R194, R195). -/
def PassResult.exceeds (r : PassResult) (thres : Word) : Bool :=
  match r with
  | .ok _ _ _ score => fgt (fabs score) thres
  | .noPeak _ => false
  | .boundary _ _ => false

/-- What the search found, the correlation being done (rules R191 to R193). -/
def State.judge (s : State) (dc : Word) : PassResult :=
  match s.findPeak.mp with
  | none => .noPeak dc
  | some mp =>
    if mp = s.lSize - 1 ∨ mp = s.windowLen - 1 then .boundary dc mp
    else .ok dc mp (s.windowPos mp) (s.score s.findPeak.mx mp)

/-- `CorrPass(buf, dcz)` (rule R185). -/
def State.corrPass (s : State) (buf : MemId) (dcz : Bool) : PassResult × State :=
  let t := s.extract buf
  let u := (if dcz then t.removeDc else t).correlate
  (u.judge t.windowMean, u)

/-! ### The correlation step -/

/-- DC-tracking IQ mode: CFG_MODE.IQ = 1 and CFG_MODE.DC = 1 (rules R169, R194). -/
def Cfg.tracking (c : Cfg) : Bool := c.iq && c.dcMode

/-- The outcome on DCBUF moved to a position in BUFS (rule R196). -/
def PassResult.shift (r : PassResult) (gdelay : Word) : PassResult :=
  match r with
  | .ok dc mp mpos score => .ok dc mp (mpos + gdelay) score
  | .noPeak dc => .noPeak dc
  | .boundary dc mp => .boundary dc mp

/-- The pass whose outcome stands, and whether it is the retry's (rules R194, R195). -/
def State.bestPass (s : State) (thres : Word) : PassResult × Bool × State :=
  let (r, t) := s.corrPass .bufs s.cfg.corrDcz
  if t.cfg.tracking && !r.exceeds thres then
    let (r2, u) := t.corrPass .dcbuf true
    if r2.exceeds thres then (r2.shift u.cfg.gdelay, true, u) else (r, false, u)
  else (r, false, t)

/-- The frequency measurement `SR·dc/(2·gain)` (rule R197). -/
def State.measuredDdf (s : State) (dc : Word) : Word :=
  fdiv (fmul (i2f s.cfg.sr.toNat) dc) (fmul ftwo s.inst.gain)

/-- DC and DDF after a step (rules R194, R197). -/
def State.recordDc (s : State) (dc : Word) : State :=
  { s with run := { s.run with dc := dc, ddf := s.measuredDdf dc } }

/-- MV, and on a peak MV_POS and BUFFERED (rule R194). -/
def State.recordPeak (s : State) (r : PassResult) : State :=
  match r with
  | .ok _ _ mpos score =>
    { s with run := { s.run with mv := score, mvPos := mpos, buffered := s.run.sampleOut - mpos } }
  | .noPeak _ => { s with run := { s.run with mv := fzero } }
  | .boundary _ _ => { s with run := { s.run with mv := fzero } }

/-- What `CorrStep` answers. -/
structure StepResult where
  code : Word
  mp : Word
  path : Bool
deriving DecidableEq, Repr

/-- The `code` and `mp` of rule R194. -/
def PassResult.answer (r : PassResult) (path : Bool) : StepResult :=
  match r with
  | .ok _ mp _ _ => ⟨rcOk, BitVec.ofNat 32 mp, path⟩
  | .boundary _ mp => ⟨rcBoundaryRejection, BitVec.ofNat 32 mp, path⟩
  | .noPeak _ => ⟨rcOk, 0xFFFFFFFF#32, path⟩

/-- `CorrStep(thres)` (rule R194). -/
def State.corrStep (s : State) (thres : Word) : StepResult × State :=
  let (r, path, t) := s.bestPass thres
  (r.answer path, (t.recordDc r.dc).recordPeak r)

/-- A threshold no command accepts: NaN or below 0 (rules R186, R202). -/
def badThreshold (thres : Word) : Bool := isNaN thres || flt thres fzero

/-- A truth value as a register shows it. -/
def boolWord (b : Bool) : Word := if b then 1#32 else 0#32

/-- CORR_STEP (rule R186). -/
def corrStepBody (t : State) : CmdEnd :=
  if badThreshold t.arg0F then .raise .badArgument
  else
    let (r, u) := t.corrStep t.arg0F
    .ret r.code (u.setRes r.mp u.run.mv u.run.mvPos (boolWord r.path))

/-- CORR_STEP under the dispatch sequence. -/
def execCorrStep (s : State) : Host.Outcome State Fault Refusal := runCommand .corrStep corrStepBody s

/-! ### Verification -/

/-- The number of the first whole sample r with `r ≥ j·sps`, sps being CFG_SPS/65536 (rule R198). -/
def ceilSps (sps j : Nat) : Nat := (j * sps + 65535) / 65536

/-- The sample of BUFS that verification integrates: DC removed in DC mode (rule R198). -/
def State.verifySample (s : State) (p : Word) : Word :=
  if s.cfg.dcMode then fsub (s.readAt .bufs p) s.run.dc else s.readAt .bufs p

/-- The integral over header bit `j`, the header starting at `start` (rule R198). -/
def State.headerIntegral (s : State) (start : Word) (j : Nat) : Word :=
  let a := ceilSps s.cfg.sps.toNat j
  (List.range (ceilSps s.cfg.sps.toNat (j + 1) - a)).foldl
    (fun acc r => fadd acc (s.verifySample (start + BitVec.ofNat 32 (a + r)))) fzero

/-- The sign decision of rules R198 and R215: 1 if the integral is not below 0; NaN gives 0. -/
def hardBit (acc : Word) : Bool := fge acc fzero

/-- Bit `j` of HDR. -/
def State.headerBit (s : State) (j : Nat) : Bool := (s.readWord .hdr j).getLsbD 0

/-- The polarity of the candidate (rule R198). -/
def State.inverted (s : State) : Bool := flt s.run.mv fzero

/-- Header bit `j` does not match at the candidate's position (rule R198). -/
def State.headerMismatch (s : State) (j : Nat) : Bool :=
  let start := s.run.mvPos + 1#32 - s.size.l
  decide (Bool.xor (hardBit (s.headerIntegral start j)) s.inverted ≠ s.headerBit j)

/-- `HeadCmp()` (rule R198): the mismatches, and 1 for inverted polarity. -/
def State.headCmp (s : State) : Word × Word :=
  (BitVec.ofNat 32 ((List.range s.cfg.hdrLen.toNat).countP s.headerMismatch), boolWord s.inverted)

/-- HEADCMP (rule R198). -/
def headcmpBody (t : State) : CmdEnd := .ret rcOk (t.setRes01 t.headCmp.1 t.headCmp.2)

/-- HEADCMP under the dispatch sequence. -/
def execHeadcmp (s : State) : Host.Outcome State Fault Refusal := runCommand .headcmp headcmpBody s

/-! ### The search loop -/

/-- T_NOSIG · SR (rule R201). -/
def State.lossLimit (s : State) : Nat := s.inst.tNosig * s.cfg.sr.toNat

/-- Signal loss (rule R201). -/
def State.signalLost (s : State) : Bool := !s.active || decide (s.lossLimit ≤ s.run.nosig.toNat)

/-- The registers of a verified header (rule R202). -/
def State.headerFound (s : State) (errs : Word) : State :=
  let t := s.setDet .headerVerified
  { t with run := { t.run with nosig := 0#32 } }.setRes012 s.run.mvPos s.run.mv errs

/-- The carrier loop takes a candidate's measurement in DC-tracking IQ mode (rule R202). -/
def State.trackCarrier (s : State) : State := if s.cfg.tracking then s.carrierUpdate else s

/-- A candidate at hand (rule R202): the state to return with if it is accepted, or the state to search on from. DESIGN
CHOICE: the HOST has no moment in here, so that no read of STATUS returns PeakFound (rule R200; log entry 2). -/
def State.candidate (s : State) (maxerr : Nat) : Bool × State :=
  let t := (s.setDet .peakFound).trackCarrier
  let errs := t.headCmp.1
  if errs.toNat ≤ maxerr then (true, t.headerFound errs) else (false, t.fresh.setDet .searching)

/-- A correlation step of the search and what follows from it (rule R202). -/
def State.searchStep (s : State) (thres : Word) (maxerr : Nat) : Bool × State :=
  let (r, t) := { s with run := { s.run with kcnt := 0#32 } }.corrStep thres
  if r.code = rcOk ∧ fgt (fabs t.run.mv) thres = true then t.candidate maxerr else (false, t)

/-- NOSIG and KCNT after a sample step of the search (rule R202). -/
def State.countSample (s : State) : State :=
  { s with run := { s.run with nosig := s.run.nosig + 1#32, kcnt := s.run.kcnt + 1#32 } }

/-- A sample step counted, and a correlation step if K of them are new (rule R202). -/
def State.afterSample (s : State) (thres : Word) (maxerr : Nat) : Bool × State :=
  let t := s.countSample
  if t.size.k.toNat ≤ t.run.kcnt.toNat then t.searchStep thres maxerr else (false, t)

/-- The loop of rule R202. `fuel` bounds the number of iterations. -/
def searchLoop (thres : Word) (maxerr : Nat) : Nat → State → CmdEnd
  | 0, _ => .stop .searchWithoutEnd
  | fuel + 1, s =>
    match hostMoment s with
    | .eos t => .ret rcEndOfStream t
    | .reset t => .abandoned t
    | .stop f => .stop f
    | .done _ t =>
      if t.signalLost then .ret rcSignalLost t.setLost
      else match demodStep t with
        | (none, u) => .ret rcEndOfStream u
        | (some _, u) =>
          match u.afterSample thres maxerr with
          | (true, v) => .ret rcOk v
          | (false, v) => searchLoop thres maxerr fuel v

/-- DETSTATE <- Searching, KCNT <- 0 (rule R202). -/
def State.startSearch (s : State) : State :=
  let t := s.setDet .searching
  { t with run := { t.run with kcnt := 0#32 } }

/-- The number of iterations after which the search has declared signal loss at the latest (rule R298). -/
def State.searchFuel (s : State) : Nat := s.lossLimit - s.run.nosig.toNat + 1

/-- FIND_HDR (rule R202). -/
def findHdrBody (t : State) : CmdEnd :=
  if badThreshold t.arg0F then .raise .badArgument
  else if t.status.session = .ended then .ret (endedCode t) t
  else searchLoop t.arg0F t.arg1Nat t.searchFuel t.startSearch

/-- FIND_HDR under the dispatch sequence. -/
def execFindHdr (s : State) : Host.Outcome State Fault Refusal := runCommand .findHdr findHdrBody s

end Sys2Proof.Machine
end

