-- ==== Sys2Proof/Machine/Slicer.lean ====
section
/-! DEFINITION. The integrate-and-dump bit slicer: the symbol clock (rule R211), `NextSample` (R212), `Integrate` (R213,
R218), `Despike` (R214), `ReadBit` (R215), and RD_HBIT and RD_SBIT (R216, R217). -/

namespace Sys2Proof.Machine

/-- The read point's position moved by `ofs`: u32(SAMPLE_OUT - BUFFERED + ofs) (rule R212). -/
def State.readPoint (s : State) (ofs : Word) : Word := s.run.sampleOut - s.run.buffered + ofs

/-- `NextSample(ofs)` (rule R212): a buffered sample, or one sample step. -/
def nextSample (ofs : Word) (s : State) : Flow Word :=
  if 0 < s32 s.run.buffered then
    let t := { s with run := { s.run with buffered := s.run.buffered - 1#32 } }
    .done (t.readPoint ofs) t
  else
    (hostMoment s).bind (fun _ t => (Flow.ofOption (demodStep t)).bind (fun _ u => .done (u.readPoint ofs) u))

/-- `Despike(x, idx)` (rule R214). -/
def State.despike (s : State) (x idx : Word) : Word :=
  let a := fmul fhalf (fadd (s.readAt .bufs (idx - 1#32)) (s.readAt .bufs (idx + 1#32)))
  let d := fsub x a
  if fgt (fabs d) s.inst.spikeThs then fadd a (fmul s.inst.spikeScale d) else x

/-- The sample of BUFS at `idx` after spike suppression, DC removal and inversion, in this order (rule R213). -/
def State.slicerSample (s : State) (g : BitFlags) (idx : Word) : Word :=
  let x0 := s.readAt .bufs idx
  let x1 := if g.spike then s.despike x0 idx else x0
  let x2 := if g.dcsub then fsub x1 s.run.dc else x1
  if g.inv then fneg x2 else x2

/-- The sample with count `sc` contributes (rules R213, R218): `l < 0`, or `mid2 - 2l < 2·sc < mid2 + 2l`; `mid2` and
`l` in units of 2^-16. -/
def contributes (l mid2 : Int) (sc : Nat) : Bool :=
  decide (l < 0) || (decide (mid2 - 2 * l < 2 * 65536 * sc) && decide (2 * 65536 * (sc : Int) < mid2 + 2 * l))

/-- The accumulator after a sample (rule R213). -/
def addSample (add : Bool) (acc x : Word) : Word := if add then fadd acc x else fsub acc x

/-- SC advanced by one. -/
def State.tickSc (s : State) : State := { s with run := { s.run with sc := s.run.sc + 1#32 } }

/-- SC has not reached BG (rule R211). -/
def State.scBelowBg (s : State) : Bool := decide (65536 * s.run.sc.toNat < s.run.bg.toNat)

/-- The loop of rule R213. `fuel` bounds the number of samples. -/
def integrateLoop (add : Bool) (g : BitFlags) (ofs : Word) (l mid2 : Int) : Nat → Word → State → Flow Word
  | 0, acc, s => .done acc s
  | fuel + 1, acc, s =>
    if s.scBelowBg then
      (nextSample ofs s).bind (fun idx t =>
        let a := if contributes l mid2 t.run.sc.toNat then addSample add acc (t.slicerSample g idx) else acc
        if t.run.sc.toNat + 1 < 2 ^ 32 then integrateLoop add g ofs l mid2 fuel a t.tickSc
        else .stop .slicerClockOverflow)
    else .done acc s

/-- `Integrate(sign, acc, flags, ofs, l)` (rule R213); `add` is sign = +1. -/
def integrate (add : Bool) (g : BitFlags) (ofs : Word) (l : Int) (acc : Word) (s : State) : Flow Word :=
  let bg := s.run.bg.toNat
  let sps := s.cfg.sps.toNat
  if bg + sps < 2 ^ 48 then
    let t := { s with run := { s.run with bg := BitVec.ofNat 48 (bg + sps) } }
    integrateLoop add g ofs l (2 * bg + sps - 65536) ((bg + sps + 65535) / 65536 - t.run.sc.toNat) acc t
  else .stop .slicerClockOverflow

/-- The symbol clock restarted (rules R211, R215). -/
def State.restartClock (s : State) : State := { s with run := { s.run with sc := 0#32, bg := 0#48 } }

/-- `ReadBit(flags, ofs, l)` (rule R215): its integral; the bit is the integral's `hardBit`. -/
def readBit (g : BitFlags) (ofs : Word) (l : Int) (s : State) : Flow Word :=
  let t := if g.rst then s.restartClock else s
  let first : Flow Word := if t.cfg.symbols = 2 then integrate false g ofs l fzero t else .done fzero t
  first.bind (integrate true g ofs l)

/-- RD_HBIT (rule R216). -/
def rdHbitBody (flags : Nibble) (t : State) : CmdEnd :=
  if t.status.session = .ended then .ret (endedCode t) t
  else (readBit (flagsOf flags) t.arg0F t.arg1Q t).finish (fun acc u =>
    .ret rcOk (u.setRes0 (boolWord (hardBit acc))))

/-- RD_SBIT (rule R217). -/
def rdSbitBody (flags : Nibble) (t : State) : CmdEnd :=
  if t.status.session = .ended then .ret (endedCode t) t
  else (readBit (flagsOf flags) t.arg0F t.arg1Q t).finish (fun acc u =>
    .ret rcOk (u.setRes01 (boolWord (hardBit acc)) acc))

/-- RD_HBIT under the dispatch sequence. -/
def execRdHbit (flags : Nibble) (s : State) : Host.Outcome State Fault Refusal :=
  runCommand (.rdHbit flags) (rdHbitBody flags) s

/-- RD_SBIT under the dispatch sequence. -/
def execRdSbit (flags : Nibble) (s : State) : Host.Outcome State Fault Refusal :=
  runCommand (.rdSbit flags) (rdSbitBody flags) s

end Sys2Proof.Machine
end

