-- ==== Sys2Proof/Machine/System.lean ====
section
/-! DEFINITION. NOP (rule R231), INIT (rules R232 to R234) and SRESET (rule R235). -/

namespace Sys2Proof.Machine

/-- NOP (rule R231). -/
def nopBody (t : State) : CmdEnd := .ret rcOk t

/-- NOP under the dispatch sequence. -/
def execNop (s : State) : Host.Outcome State Fault Refusal := runCommand .nop nopBody s

/-- SRESET (rule R235). -/
def sresetBody (t : State) : CmdEnd := .ret rcOk t.hardwareReset

/-- SRESET under the dispatch sequence. -/
def execSreset (s : State) : Host.Outcome State Fault Refusal := runCommand .sreset sresetBody s

/-! ### INIT: what the session will be -/

/-- The exponent of the smallest power of two that is at least `n`. -/
def ceilLog2 (n : Nat) : Nat := if n ≤ 1 then 0 else Nat.log2 (n - 1) + 1

/-- D (rule R232): CFG_DECM if DECIM = 1, else 1. -/
def Cfg.decimation (c : Cfg) : Nat := if c.decim then c.decm.toNat else 1

/-- SR·D, the input rate. -/
def Cfg.inputRate (c : Cfg) : Nat := c.sr.toNat * c.decimation

/-- L = floor(H·sps + 1/2) (rule R232). -/
def Cfg.templateLen (c : Cfg) : Nat := (c.hdrLen.toNat * c.sps.toNat + 32768) / 65536

/-- Mreq = max(2, ceil(3·H·sps)) (rule R232). -/
def Cfg.requiredLen (c : Cfg) : Nat := max 2 ((3 * c.hdrLen.toNat * c.sps.toNat + 65535) / 65536)

/-- M, the smallest power of two that is at least Mreq (rule R232). -/
def Cfg.bufferLen (c : Cfg) : Nat := 2 ^ ceilLog2 c.requiredLen

/-- LOG2N (rule R234). -/
def Cfg.transformLog (c : Cfg) : Nat := ceilLog2 (max 2 (c.k.toNat + c.templateLen))

/-- N (rule R234). -/
def Cfg.transformLen (c : Cfg) : Nat := 2 ^ c.transformLog

/-- d = gcd(SR·D, CFG_ROTW) (rule R232). -/
def Cfg.rotationGcd (c : Cfg) : Nat := Nat.gcd c.inputRate c.rotw.toNat

/-- SR·D/d, the length of the rotation table (rule R150). -/
def Cfg.rotationLen (c : Cfg) : Nat := c.inputRate / c.rotationGcd

/-! ### INIT: the checks of rule R232, by number -/

/-- Condition 1. -/
def State.rateOk (s : State) : Bool :=
  decide (s.inst.iqdcDiv ≤ s.cfg.sr.toNat ∧ s.inst.tNosig * s.cfg.sr.toNat < 2 ^ 32)

/-- Condition 2. -/
def Cfg.formatOk (c : Cfg) : Bool :=
  decide ((c.bps = 8 ∨ c.bps = 16 ∨ c.bps = 32) ∧ c.fmt &&& 0xFFFFFCC0#32 = 0#32)

/-- Condition 3. -/
def Cfg.modeReservedOk (c : Cfg) : Bool := decide (c.mode &&& 0xFFFFFF80#32 = 0#32)

/-- Condition 4. -/
def Cfg.iqStereoOk (c : Cfg) : Bool := !c.iq || c.stereo

/-- Condition 5. -/
def Cfg.realModeOk (c : Cfg) : Bool := c.iq || (!c.derot && !c.lpIq && !c.lpFm && !c.decim)

/-- Condition 6. -/
def Cfg.spsOk (c : Cfg) : Bool := decide (0x00010000 ≤ c.sps.toNat)

/-- Condition 7. -/
def Cfg.headerOk (c : Cfg) : Bool := decide (1 ≤ c.hdrLen.toNat)

/-- Condition 8. -/
def Cfg.symbolsOk (c : Cfg) : Bool := decide (c.symLen.toNat = 1 ∨ c.symLen.toNat = 2)

/-- Condition 9. -/
def Cfg.btOk (c : Cfg) : Bool := isFinite c.bt && flt fzero c.bt

/-- Condition 10. -/
def Cfg.loopGainOk (c : Cfg) : Bool := isFinite c.loopg

/-- Condition 11. -/
def State.iqTapsOk (s : State) : Bool :=
  !s.cfg.lpIq || (decide (s.size.taps1 = s.size.taps2) && decide (1 ≤ s.size.taps1.toNat))

/-- Condition 12. -/
def State.fmTapsOk (s : State) : Bool := !s.cfg.lpFm || decide (1 ≤ s.size.taps3.toNat)

/-- Condition 13. -/
def State.decimationOk (s : State) : Bool :=
  !s.cfg.decim
    || (decide (1 ≤ s.cfg.decm.toNat) && decide (1 ≤ s.size.taps0.toNat) && decide (1 ≤ s.cfg.rotw.toNat)
      && decide (s32 s.cfg.rotf % (s.cfg.rotationGcd : Int) = 0)
      && decide (s.size.taps0.toNat * s.cfg.rotationLen < 2 ^ 32))

/-- Condition 14. -/
def Cfg.inputRateOk (c : Cfg) : Bool := decide (c.inputRate < 2 ^ 31)

/-- Condition 15. -/
def Cfg.strideOk (c : Cfg) : Bool :=
  decide (1 ≤ c.k.toNat ∧ c.k.toNat + c.templateLen + c.delay.toNat ≤ c.bufferLen)

/-- All conditions of rule R232. -/
def State.configValid (s : State) : Bool :=
  s.rateOk && s.cfg.formatOk && s.cfg.modeReservedOk && s.cfg.iqStereoOk && s.cfg.realModeOk && s.cfg.spsOk
    && s.cfg.headerOk && s.cfg.symbolsOk && s.cfg.btOk && s.cfg.loopGainOk && s.iqTapsOk && s.fmTapsOk
    && s.decimationOk && s.cfg.inputRateOk && s.cfg.strideOk

/-- The capacity checks of rule R233. -/
def State.capacityOk (s : State) : Bool :=
  decide (s.cfg.hdrLen.toNat ≤ s.inst.hdrMax) && decide (s.cfg.bufferLen ≤ s.inst.nMax)
    && (!s.cfg.decim || decide (s.cfg.rotationLen ≤ s.inst.rotMax))

/-! ### INIT: what it writes (rule R234) -/

/-- The derived sizes. -/
def State.initSizes (s : State) : State :=
  let c := s.cfg
  { s with
    size := { s.size with
      n := BitVec.ofNat 32 c.transformLen
      log2n := BitVec.ofNat 32 c.transformLog
      m := BitVec.ofNat 32 c.bufferLen
      l := BitVec.ofNat 32 c.templateLen
      k := c.k
      rotLen := if c.decim then BitVec.ofNat 32 c.rotationLen else 0#32
      decm := BitVec.ofNat 32 c.decimation } }

/-- TW (rule R101). -/
def State.initTwiddles (s : State) : State := s.writeCxs .tw 0 (twiddleTable s.nSize)

/-- One window of WROM (rule R107), which spans K+L samples. -/
def State.initWindow (s : State) (w : Window) : State :=
  s.writeWords .wrom (s.wromIndex w 0) (windowTable w (s.size.k.toNat + s.size.l.toNat) s.nSize)

/-- WROM. -/
def State.initWindows (s : State) : State :=
  (((s.initWindow .boxcar).initWindow .hann).initWindow .hamming).initWindow .blackman

/-- The header bits in HDR. -/
def State.headerBits (s : State) : List Bool := (List.range s.cfg.hdrLen.toNat).map s.headerBit

/-- MATCH (rule R181). -/
def State.initTemplate (s : State) : State :=
  s.writeWords .matchT 0 (matchTemplate s.cfg.bt s.cfg.sps.toNat s.headerBits s.size.l.toNat)

/-- The reversed template, zero-padded to N (rule R183). -/
def State.reversedTemplate (s : State) : List Cx :=
  let l := s.size.l.toNat
  (List.range s.nSize).map (fun i => if i < l then ⟨s.readWord .matchT (l - 1 - i), fzero⟩ else czero)

/-- FM (rule R183). -/
def State.initSpectrum (s : State) : State := s.writeCxs .fm 0 (s.transform s.reversedTemplate)

/-- ROT, only if DECIM = 1 (rule R150). -/
def State.initRotation (s : State) : State :=
  if s.cfg.decim then
    s.writeCxs .rot 0 (rotationTable (s32 s.cfg.rotf) s.cfg.inputRate s.size.rotLen.toNat)
  else s

/-- Real entries cleared to +0. -/
def State.clearReals (s : State) (id : MemId) (n : Nat) : State := s.writeWords id 0 (List.replicate n fzero)

/-- Complex entries cleared to (+0, +0). -/
def State.clearCxs (s : State) (id : MemId) (n : Nat) : State := s.clearReals id (2 * n)

/-- The frame and spectrum memories cleared. -/
def State.initWork (s : State) : State :=
  (((s.clearReals .xn s.nSize).clearCxs .x s.nSize).clearCxs .z s.nSize).clearCxs .cx s.nSize

/-- The circular buffers cleared. -/
def State.initBuffers (s : State) : State :=
  ((s.clearReals .bufs s.size.m.toNat).clearReals .dcbuf s.size.m.toNat).clearCxs .iqbuf s.size.m.toNat

/-- The delay lines cleared. -/
def State.initLines (s : State) : State :=
  ((s.clearCxs .lpiq s.inst.tapsMax).clearCxs .decbuf s.inst.tapsMax).clearReals .lpfm s.inst.tapsMax

/-- The run-time registers of a new session, with SAMPLE_OUT = u32(-1 - CFG_DELAY) and IQDC_MAXCNT = floor(SR/32). -/
def State.initRun (s : State) : State :=
  { s with
    run := { Run.reset with
      sampleOut := 0xFFFFFFFF#32 - s.cfg.delay
      iqdcMaxCnt := BitVec.ofNat 32 (s.cfg.sr.toNat / s.inst.iqdcDiv) } }

/-- LOCKED, DETSTATE and SESSION of a new session. -/
def State.initStatus (s : State) : State :=
  { s with status := { s.status with locked := !s.cfg.dcMode, det := .searching, session := .ready } }

/-- A new session. -/
def State.openSession (s : State) : State :=
  s.initSizes.initTwiddles.initWindows.initTemplate.initSpectrum.initRotation.initWork.initBuffers.initLines.initRun.initStatus

/-- INIT (rules R232 to R234). -/
def initBody (t : State) : CmdEnd :=
  if t.configValid = false then .ret rcConfigInvalid t
  else if t.capacityOk = false then .ret rcAllocationFailure t
  else .ret rcOk t.openSession

/-- INIT under the dispatch sequence. -/
def execInit (s : State) : Host.Outcome State Fault Refusal := runCommand .init initBody s

end Sys2Proof.Machine
end

