-- ==== Sys2Proof/Machine/Dispatch.lean ====
section
/-! DEFINITION. One arm per command: its meaning under the dispatch sequence of rule R230. -/

namespace Sys2Proof.Machine

/-- What a command does. -/
def exec (i : Instr) (s : State) : Host.Outcome State Fault Refusal :=
  match i with
  | .nop => Sys2Proof.Machine.execNop s
  | .init => Sys2Proof.Machine.execInit s
  | .sreset => Sys2Proof.Machine.execSreset s
  | .fftR dst => Sys2Proof.Machine.execFftR dst s
  | .fftC dst src => Sys2Proof.Machine.execFftC dst src s
  | .ifftN dst src => Sys2Proof.Machine.execIfftN dst src s
  | .winR wsel => Sys2Proof.Machine.execWinR wsel s
  | .winC dst wsel => Sys2Proof.Machine.execWinC dst wsel s
  | .cmul dst src => Sys2Proof.Machine.execCmul dst src s
  | .lpDesign bank => Sys2Proof.Machine.execLpDesign bank s
  | .lpApply bank => Sys2Proof.Machine.execLpApply bank s
  | .rdSample => Sys2Proof.Machine.execRdSample s
  | .rdCsample => Sys2Proof.Machine.execRdCsample s
  | .demodStep => Sys2Proof.Machine.execDemodStep s
  | .corrStep => Sys2Proof.Machine.execCorrStep s
  | .headcmp => Sys2Proof.Machine.execHeadcmp s
  | .findHdr => Sys2Proof.Machine.execFindHdr s
  | .rdHbit flags => Sys2Proof.Machine.execRdHbit flags s
  | .rdSbit flags => Sys2Proof.Machine.execRdSbit flags s

end Sys2Proof.Machine
end

