-- ==== Sys2Proof/Machine/Step.lean ====
section
/-! DEFINITION. The step: the HOST's next event, a command if that is a write to CMD (rules R15, R85). RS-CORE has no
program counter: the words written to CMD are its program. -/

namespace Sys2Proof.Machine

/-- A write to CMD while BUSY = 0: the command it encodes, or an IllegalCommand fault (rules R85, R92). -/
def issue (w : Word) (s : State) : Host.Outcome State Fault Refusal :=
  match decode w with
  | .ok i => exec i s
  | .error _ => runIllegal w s

/-- One HOST event on the idle block. -/
def perform (e : HostEvent) (s : State) : Host.Outcome State Fault Refusal :=
  match e with
  | .hardReset => .next s.hardwareReset
  | .read width addr => .next (s.busRead width addr)
  | .write width addr v =>
    if s.selected addr && s.startsCommand width (offsetOf addr) then issue v s
    else .next (s.busWrite width addr v)

/-- One step: the HOST's next event; with none, the block waits (rule R15). -/
def step (s : State) : Host.Outcome State Fault Refusal :=
  match s.host with
  | [] => .next s
  | e :: later => perform e { s with host := later }

/-- The platform address of CMD. -/
def State.cmdAddr (s : State) : Nat := s.inst.base / 2 ^ 28 * 2 ^ 28 + cmdOffset

/-- The HOST is about to write the command word `w` to CMD. -/
def State.withFetchWord (s : State) (nbits w : Nat) : State :=
  { s with
    host := .write 4 s.cmdAddr (BitVec.ofNat 32 (w % 2 ^ nbits)) :: s.host
    status := { s.status with busy := false } }

end Sys2Proof.Machine
end

