-- ==== Sys2Proof/Safety.lean ====
section
/-! DEFINITION. What counts as a safe state of RS-CORE and what a step may leave alone, in the terms that the
statements use: the canonical form of the memories, the invariants of rule R57, and the groups of state that a command
keeps. -/

namespace Sys2Proof.Machine

/-! ### Memories -/

/-- Every internal memory is in canonical form. -/
abbrev Mems.wf (ms : Mems) : Prop :=
  ms.hdr.wf ∧ ms.xn.wf ∧ ms.x.wf ∧ ms.z.wf ∧ ms.cx.wf ∧ ms.fm.wf ∧ ms.tw.wf ∧ ms.wrom.wf ∧ ms.coef.wf ∧ ms.bufs.wf
    ∧ ms.dcbuf.wf ∧ ms.iqbuf.wf ∧ ms.lpiq.wf ∧ ms.lpfm.wf ∧ ms.decbuf.wf ∧ ms.matchT.wf ∧ ms.rot.wf

/-- The byte at `a` of memory `id` lies outside the `n` words of memory `m` from word `i` up. -/
def outsideWords (id m : MemId) (i n a : Nat) : Prop := id ≠ m ∨ a < 4 * i ∨ 4 * (i + n) ≤ a

/-! ### Invariants of a session (rule R57) -/

/-- Rule R57 (a): S_N is the power of two that S_LOG2N names, and at least S_K + S_L. -/
def State.SizesOk (s : State) : Prop :=
  s.size.n.toNat = 2 ^ s.size.log2n.toNat ∧ s.size.k.toNat + s.size.l.toNat ≤ s.size.n.toNat

/-- Rule R57 (c): SAMPLE_OUT = u32(SAMPLE_IN - 1 - DELAY). -/
def State.ReadPositionOk (s : State) : Prop := s.run.sampleOut = s.run.sampleIn - 1#32 - s.cfg.delay

/-- Rule R57 (d): IQDC_MAXCNT < 2·IQDC_MAXLIM. -/
def State.WindowOk (s : State) : Prop := s.run.iqdcMaxCnt.toNat < 2 * s.iqdcLimit

/-- Rule R57 (e): the write pointers lie within their delay lines. -/
def State.PointersOk (s : State) : Prop :=
  s.run.lpiqWp.toNat < max 1 s.size.taps1.toNat ∧ s.run.lpfmWp.toNat < max 1 s.size.taps3.toNat
    ∧ s.run.sdec.toNat < max 1 (s.size.taps0.toNat * s.size.rotLen.toNat)

/-- Rule R57 (f): SC ≤ ceil(BG). -/
def State.ClockOk (s : State) : Prop := 65536 * s.run.sc.toNat ≤ s.run.bg.toNat + 65535

/-- What INIT checked of the rates and the stages (rules R30, R37, R38, R232), which the session's registers keep. -/
def State.StagesOk (s : State) : Prop :=
  1 ≤ s.cfg.sr.toNat ∧ 1 ≤ s.size.decm.toNat ∧ s.cfg.sr.toNat * s.size.decm.toNat < 2 ^ 31
    ∧ (s.cfg.lpIq = true → 1 ≤ s.size.taps1.toNat) ∧ (s.cfg.lpFm = true → 1 ≤ s.size.taps3.toNat)
    ∧ (s.cfg.decim = true →
        1 ≤ s.size.taps0.toNat ∧ 1 ≤ s.size.rotLen.toNat ∧ s.size.taps0.toNat * s.size.rotLen.toNat < 2 ^ 32)

/-- The invariants of rule R57 in a session: SESSION = READY or ENDED. -/
structure State.SessionOk (s : State) : Prop where
  sizes : s.SizesOk
  readPosition : s.ReadPositionOk
  window : s.WindowOk
  pointers : s.PointersOk
  stages : s.StagesOk

/-- What holds of RS-CORE from reset on: a legal instance, the symbol clock in order, and in a session rule R57. -/
structure State.Inv (s : State) : Prop where
  legal : s.inst.legal = true
  clock : s.ClockOk
  session : s.status.session ≠ .uninit → s.SessionOk

/-! ### Which command words there are -/

/-- The command words of rules R87 to R92, by format, without the decoder: the OPC in bits 31:24, bits 23:12 zero, and
below them what the OPC's format allows. -/
def legalWord (w : Word) : Bool :=
  let low := w.toNat % 2 ^ 24
  match w.toNat / 2 ^ 24 with
  | 0x00 => decide (low = 0)
  | 0x01 => decide (low = 0)
  | 0x02 => decide (low = 0)
  | 0x10 => decide (low < 3)
  | 0x11 => decide (low < 0x30 ∧ low % 16 < 3)
  | 0x12 => decide (low < 0x30 ∧ low % 16 < 3)
  | 0x13 => decide (low < 0x400 ∧ low % 256 = 0)
  | 0x14 => decide (low < 0x400 ∧ low % 256 < 3)
  | 0x15 => decide (low < 0x30 ∧ low % 16 < 3)
  | 0x20 => decide (low < 4)
  | 0x21 => decide (low < 4)
  | 0x30 => decide (low = 0)
  | 0x31 => decide (low = 0)
  | 0x40 => decide (low = 0)
  | 0x50 => decide (low = 0)
  | 0x51 => decide (low = 0)
  | 0x52 => decide (low = 0)
  | 0x60 => decide (low < 16)
  | 0x61 => decide (low < 16)
  | _ => false

/-! ### The window of the HOST -/

/-- The readable registers of rule R23 but CTRL and STATUS: the offset, and the word that a read returns. BG is shown
in two words, bits 31:0 and bits 47:32 (rule R46). -/
def registerMap (s : State) : List (Nat × Word) :=
  [(0x000, 0x52530007#32), (0x010, s.result), (0x014, s.fcause), (0x018, s.finfo)]
    ++ [(0x020, s.arg.r0), (0x024, s.arg.r1), (0x028, s.arg.r2), (0x02C, s.arg.r3)]
    ++ [(0x030, s.res.r0), (0x034, s.res.r1), (0x038, s.res.r2), (0x03C, s.res.r3)]
    ++ [(0x040, s.cfg.sr), (0x044, s.cfg.fmt), (0x048, s.cfg.mode), (0x04C, s.cfg.sps), (0x050, s.cfg.hdrLen),
      (0x054, s.cfg.symLen), (0x058, s.cfg.bt), (0x05C, s.cfg.k), (0x060, s.cfg.delay), (0x064, s.cfg.decm),
      (0x068, s.cfg.rotf), (0x06C, s.cfg.rotw), (0x070, s.cfg.gdelay), (0x074, s.cfg.loopg)]
    ++ [(0x080, s.size.n), (0x084, s.size.log2n), (0x088, s.size.m), (0x08C, s.size.l), (0x090, s.size.k),
      (0x094, s.size.rotLen), (0x098, s.size.taps0), (0x09C, s.size.taps1), (0x0A0, s.size.taps2),
      (0x0A4, s.size.taps3), (0x0A8, s.size.decm)]
    ++ [(0x0C0, s.run.sampleIn), (0x0C4, s.run.sampleOut), (0x0C8, s.run.mv), (0x0CC, s.run.mvPos), (0x0D0, s.run.dc),
      (0x0D4, s.run.df), (0x0D8, s.run.ddf), (0x0DC, s.run.buffered), (0x0E0, s.run.sc)]
    ++ [(0x0E4, s.run.bg.setWidth 32), (0x0E8, (s.run.bg >>> 32).setWidth 32)]
    ++ [(0x0EC, s.run.nosig), (0x0F0, s.run.kcnt), (0x0F4, s.run.sdec), (0x0F8, s.run.iqdcCnt),
      (0x0FC, s.run.iqdcMaxCnt), (0x100, s.run.iqdcSumX), (0x104, s.run.iqdcSumY), (0x108, s.run.iqdcAvgX),
      (0x10C, s.run.iqdcAvgY), (0x110, s.run.lpiqWp), (0x114, s.run.lpfmWp)]

/-- The word of STATUS by rule R26: BUSY in bit 0, SESSION 2:1, EOS 3, LOST 4, FAULT 5, LOCKED 6, DETSTATE 9:8, every
other bit 0. -/
def StatusShows (w : Word) (t : Status) : Prop :=
  w.getLsbD 0 = t.busy
    ∧ w.toNat / 2 % 4 = (match t.session with | .uninit => 0 | .ready => 1 | .ended => 2)
    ∧ w.getLsbD 3 = t.eos ∧ w.getLsbD 4 = t.lost ∧ w.getLsbD 5 = t.fault ∧ w.getLsbD 6 = t.locked
    ∧ w.getLsbD 7 = false
    ∧ w.toNat / 2 ^ 8 % 4 = (match t.det with | .searching => 0 | .peakFound => 1 | .headerVerified => 2 | .lost => 3)
    ∧ w.toNat < 2 ^ 10

/-- The state with a HostAccess fault at a window offset recorded: FAULT, and if it is the first fault its cause and the
offset (rules R255 to R257); nothing else. -/
def State.recorded (s : State) (off : Nat) : State :=
  { s with
    status := { s.status with fault := true }
    fcause := if s.status.fault = true then s.fcause else 4#32
    finfo := if s.status.fault = true then s.finfo else BitVec.ofNat 32 off }

/-! ### What INIT asks for -/

/-- The fifteen conditions of rule R232, in its order, spelled out over the bits of the registers. H·sps is
`hdrLen·sps/65536`; "at most M" is "at most every power of two that M is the smallest of". Condition 1 uses the
parameters T_NOSIG and IQDC_DIV where the rule prints 10 and 32 (log entry 19). -/
structure State.ConfigLegal (s : State) : Prop where
  rate : s.inst.iqdcDiv ≤ s.cfg.sr.toNat ∧ s.inst.tNosig * s.cfg.sr.toNat < 2 ^ 32
  format : (s.cfg.fmt.toNat % 64 = 8 ∨ s.cfg.fmt.toNat % 64 = 16 ∨ s.cfg.fmt.toNat % 64 = 32)
    ∧ s.cfg.fmt.getLsbD 6 = false ∧ s.cfg.fmt.getLsbD 7 = false ∧ s.cfg.fmt.toNat < 2 ^ 10
  mode : s.cfg.mode.toNat < 2 ^ 7
  stereo : s.cfg.mode.getLsbD 0 = true → s.cfg.fmt.getLsbD 8 = true
  realMode : s.cfg.mode.getLsbD 0 = false → s.cfg.mode.getLsbD 1 = false ∧ s.cfg.mode.getLsbD 2 = false
    ∧ s.cfg.mode.getLsbD 3 = false ∧ s.cfg.mode.getLsbD 4 = false
  sps : 2 ^ 16 ≤ s.cfg.sps.toNat
  header : 1 ≤ s.cfg.hdrLen.toNat
  symbols : s.cfg.symLen = 1#32 ∨ s.cfg.symLen = 2#32
  bt : isFinite s.cfg.bt = true ∧ flt fzero s.cfg.bt = true
  loopGain : isFinite s.cfg.loopg = true
  iqTaps : s.cfg.mode.getLsbD 2 = true → s.size.taps1 = s.size.taps2 ∧ 1 ≤ s.size.taps1.toNat
  fmTaps : s.cfg.mode.getLsbD 3 = true → 1 ≤ s.size.taps3.toNat
  decimation : s.cfg.mode.getLsbD 4 = true →
    1 ≤ s.cfg.decm.toNat ∧ 1 ≤ s.size.taps0.toNat ∧ 1 ≤ s.cfg.rotw.toNat
      ∧ (Nat.gcd (s.cfg.sr.toNat * s.cfg.decm.toNat) s.cfg.rotw.toNat : Int) ∣ s.cfg.rotf.toInt
      ∧ s.size.taps0.toNat * (s.cfg.sr.toNat * s.cfg.decm.toNat
          / Nat.gcd (s.cfg.sr.toNat * s.cfg.decm.toNat) s.cfg.rotw.toNat) < 2 ^ 32
  inputRate : s.cfg.sr.toNat * (if s.cfg.mode.getLsbD 4 = true then s.cfg.decm.toNat else 1) < 2 ^ 31
  stride : 1 ≤ s.cfg.k.toNat ∧ ∀ e : Nat, 1 ≤ e → 3 * s.cfg.hdrLen.toNat * s.cfg.sps.toNat ≤ 65536 * 2 ^ e →
    s.cfg.k.toNat + (s.cfg.hdrLen.toNat * s.cfg.sps.toNat + 32768) / 65536 + s.cfg.delay.toNat ≤ 2 ^ e

/-- The capacity conditions of rule R233: the smallest power of two that is at least max(2, ceil(3·H·sps)) is at most
N_MAX, itself a power of two, exactly if that bound is. -/
structure State.CapacityLegal (s : State) : Prop where
  header : s.cfg.hdrLen.toNat ≤ s.inst.hdrMax
  buffer : 2 ≤ 2 ^ s.inst.log2nMax ∧ 3 * s.cfg.hdrLen.toNat * s.cfg.sps.toNat ≤ 65536 * 2 ^ s.inst.log2nMax
  rotation : s.cfg.mode.getLsbD 4 = true →
    s.cfg.sr.toNat * s.cfg.decm.toNat / Nat.gcd (s.cfg.sr.toNat * s.cfg.decm.toNat) s.cfg.rotw.toNat ≤ s.inst.rotMax

/-! ### Which writes of the HOST are allowed -/

/-- An aligned 32-bit write at a window offset other than CMD is allowed while the block is idle (rules R23, R62, R255):
CTRL, ARG, a CFG register or HDR in UNINIT, XN, X, Z or CX in READY, within the memory's capacity. -/
def State.WriteAllowed (s : State) (off : Nat) : Prop :=
  off = 0x004 ∨ (0x020 ≤ off ∧ off ≤ 0x02C)
    ∨ (0x040 ≤ off ∧ off ≤ 0x074 ∧ s.status.session = .uninit)
    ∨ (off / 2 ^ 24 = 1 ∧ s.status.session = .uninit ∧ off % 2 ^ 24 / 4 < s.inst.hdrMax)
    ∨ (off / 2 ^ 24 = 2 ∧ s.status.session = .ready ∧ off % 2 ^ 24 / 4 < s.inst.nMax)
    ∨ (3 ≤ off / 2 ^ 24 ∧ off / 2 ^ 24 ≤ 5 ∧ s.status.session = .ready ∧ off % 2 ^ 24 / 4 < 2 * s.inst.nMax)

/-- The HOST's next event, and the block as it stands when it happens. -/
def State.Next (s : State) (e : HostEvent) (u : State) : Prop :=
  ∃ later, s.host = e :: later ∧ u = { s with host := later }

/-! ### What a command leaves alone -/

/-- What no command but SRESET changes, faulting or not: the instance, CTRL, ARG, CFG, the SOURCE's frames, the HOST. The
operand latches hold ARG. -/
structure Base (s t : State) : Prop where
  inst : t.inst = s.inst
  active : t.active = s.active
  arg : t.arg = s.arg
  latch : t.latch = s.arg
  cfg : t.cfg = s.cfg
  source : t.source = s.source
  host : t.host = s.host
  during : t.during = s.during
  hostReads : t.hostReads = s.hostReads

/-- `Base`, and the fault record and the sizes: what no command but INIT, LP_DESIGN and SRESET changes if it does not
fault. -/
structure Kept (s t : State) : Prop extends Base s t where
  fcause : t.fcause = s.fcause
  finfo : t.finfo = s.finfo
  size : t.size = s.size

/-- RES, the run-time registers, the SOURCE's position and every byte of every memory are unchanged. -/
structure DataKept (s t : State) : Prop where
  res : t.res = s.res
  run : t.run = s.run
  srcPos : t.srcPos = s.srcPos
  bytes : ∀ id a, t.byte id a = s.byte id a

/-- A command that returned `code`, BUSY clear, no other bit of STATUS changed. -/
structure Completed (code : Word) (s t : State) : Prop extends Kept s t where
  result : t.result = code
  status : t.status = { s.status with busy := false }

/-- RES, the run-time registers and the SOURCE's position are unchanged, and every byte of every memory but the `n`
words of memory `m` from word `i` up. -/
structure WritesOnly (s t : State) (m : MemId) (i n : Nat) : Prop where
  res : t.res = s.res
  run : t.run = s.run
  srcPos : t.srcPos = s.srcPos
  bytes : ∀ id a, outsideWords id m i n a → t.byte id a = s.byte id a

/-- A command fault (rule R256) that is the first since reset: recorded with its cause and the command word, RESULT -8,
nothing else changed. -/
structure FaultedWith (c : Cause) (w : Word) (s t : State) : Prop extends Base s t, DataKept s t where
  result : t.result = rcFaulted
  fcause : t.fcause = c.code
  finfo : t.finfo = w
  status : t.status = { s.status with busy := false, fault := true }
  size : t.size = s.size

/-- The block as hardware reset and SRESET leave it (rules R58, R235, R280), with `code` in RESULT: every register at its
reset value, no memory holding a byte; the SOURCE, the HOST and the instance as before. -/
structure ResetFrom (code : Word) (s t : State) : Prop where
  active : t.active = true
  status : t.status = Status.reset
  result : t.result = code
  fcause : t.fcause = 0#32
  finfo : t.finfo = 0#32
  arg : t.arg = Quad.zero
  latch : t.latch = Quad.zero
  res : t.res = Quad.zero
  cfg : t.cfg = Cfg.reset
  size : t.size = Sizes.reset
  run : t.run = Run.reset
  bytes : ∀ id a, t.byte id a = none
  inst : t.inst = s.inst
  source : t.source = s.source
  srcPos : t.srcPos = s.srcPos
  host : t.host = s.host
  during : t.during = s.during
  hostReads : t.hostReads = s.hostReads

/-- The run-time registers that a sample step leaves alone (rule R160). -/
structure SampleKept (s t : State) : Prop where
  mv : t.run.mv = s.run.mv
  mvPos : t.run.mvPos = s.run.mvPos
  dc : t.run.dc = s.run.dc
  df : t.run.df = s.run.df
  ddf : t.run.ddf = s.run.ddf
  buffered : t.run.buffered = s.run.buffered
  sc : t.run.sc = s.run.sc
  bg : t.run.bg = s.run.bg
  nosig : t.run.nosig = s.run.nosig
  kcnt : t.run.kcnt = s.run.kcnt

/-- What a command that runs many sample steps leaves alone whatever the HOST does meanwhile but reset the block (rules
R74, R257): the HOST can change CTRL, and a forbidden access leaves a HostAccess record. -/
structure KeptWhileBusy (s t : State) : Prop where
  inst : t.inst = s.inst
  arg : t.arg = s.arg
  latch : t.latch = s.arg
  cfg : t.cfg = s.cfg
  size : t.size = s.size
  source : t.source = s.source
  host : t.host = s.host
  notBusy : t.status.busy = false
  record : (t.status.fault = false ∧ t.fcause = s.fcause ∧ t.finfo = s.finfo) ∨ (t.status.fault = true ∧ t.fcause = 4#32)

/-- The memories that a sample step writes (rule R160). -/
def sampleMem (id : MemId) : Bool :=
  decide (id = .bufs ∨ id = .dcbuf ∨ id = .iqbuf ∨ id = .lpiq ∨ id = .lpfm ∨ id = .decbuf)

/-- The memories that a correlation step writes (rule R185). -/
def corrMem (id : MemId) : Bool := decide (id = .xn ∨ id = .x ∨ id = .z ∨ id = .cx)

/-- `n` counted sample steps of the search (rule R202), if none of them meets signal loss or the end of the stream. -/
def State.searchSteps : Nat → State → Option State
  | 0, s => some s
  | n + 1, s =>
    if s.signalLost then none
    else match demodStep s with
      | (some _, t) => State.searchSteps n t.countSample
      | (none, _) => none

/-- `n` strides of the search (rule R202) that find no header: S_K counted sample steps each, and a correlation step that
accepts nothing. -/
def State.searchStrides (thres : Word) (maxerr : Nat) : Nat → State → Option State
  | 0, s => some s
  | n + 1, s =>
    match s.searchSteps s.size.k.toNat with
    | none => none
    | some t =>
      match t.searchStep thres maxerr with
      | (true, _) => none
      | (false, u) => State.searchStrides thres maxerr n u

/-! ### Sums that a rule accumulates in order -/

/-- Rule R125: the products of entries and coefficients accumulated in ascending buffer index, from +0. -/
def filterSum (x c : Nat → Word) (taps : Nat) : Word :=
  (List.range taps).foldl (fun acc i => fadd acc (fmul (x i) (c i))) fzero

/-- `LowPass` of rule R125: `line` gives the entries, `newest` is the index of the newest, and entry `i` meets
COEF[b][(T-1-newest) + i]. -/
def State.filterOutput (s : State) (line : Nat → Word) (b newest taps : Nat) : Word :=
  filterSum line (fun i => s.readWord .coef (b * (2 * s.inst.tapsMax) + (taps - 1 - newest + i))) taps

/-- Rule R198's integral over header bit `j`: the samples r of BUFS with j·sps ≤ r < (j+1)·sps, counted from the header's
first, less DC in DC mode, added in order of time from +0. -/
def State.headerSum (s : State) (j : Nat) : Word :=
  let first := (j * s.cfg.sps.toNat + 65535) / 65536
  let last := ((j + 1) * s.cfg.sps.toNat + 65535) / 65536
  (List.range (last - first)).foldl
    (fun acc r =>
      let p := s.run.mvPos + 1#32 - s.size.l + BitVec.ofNat 32 (first + r)
      let x := s.readWord .bufs (p.toNat % s.size.m.toNat)
      fadd acc (if s.cfg.mode.getLsbD 5 = true then fsub x s.run.dc else x)) fzero

/-- The header bits that do not match at the candidate's position, after inversion (rule R198). -/
def State.mismatchCount (s : State) : Nat :=
  (List.range s.cfg.hdrLen.toNat).countP (fun j =>
    (fge (s.headerSum j) fzero ^^ flt s.run.mv fzero) != (s.readWord .hdr j).getLsbD 0)

/-- Rule R213's accumulation over one symbol: `n` samples `x` with counts from `sc` up, `mid2` twice the symbol's centre
and `l` the half-width, both in units of 2^-16; `add` is sign = +1. -/
def symbolFold (l mid2 : Int) (x : Nat → Word) (add : Bool) (sc n : Nat) (acc : Word) : Word :=
  (List.range n).foldl (fun acc j =>
    if contributes l mid2 (sc + j) = true then (if add then fadd acc (x j) else fsub acc (x j)) else acc) acc

/-- Rule R213's integral over one symbol of buffered samples: `n` samples with counts from `sc` up, the first of them
`done + 1` positions after the read point, in a symbol that starts at `bg`; `add` is sign = +1. -/
def State.symbolSum (s : State) (g : BitFlags) (add : Bool) (bg sc n done : Nat) (acc : Word) : Word :=
  symbolFold s.arg.r1.toInt (2 * bg + s.cfg.sps.toNat - 65536)
    (fun j => s.slicerSample g (s.run.sampleOut - s.run.buffered + BitVec.ofNat 32 (done + j + 1) + s.arg.r0))
    add sc n acc

/-! ### Rounding (rules R10, R12) -/

/-- The least number of units that rounds to infinity: half a step beyond the largest finite value. -/
def overflowUnits : Nat := (2 ^ 25 - 1) * 2 ^ 252

/-- `r` is the real `num/den` units rounded to nearest, ties to even: infinite with its sign from `overflowUnits` on,
else finite and at least as near as every finite value, one as near having the same value or `r` an even
significand. -/
structure RoundedTo (r : Word) (num : Int) (den : Nat) : Prop where
  overflow : num.natAbs ≥ overflowUnits * den → isInf r = true ∧ fsign r = decide (num < 0)
  finite : num.natAbs < overflowUnits * den → isFinite r = true
  nearest : isFinite r = true → ∀ c : Word, isFinite c = true →
    (units r * den - num).natAbs ≤ (units c * den - num).natAbs
      ∧ ((units r * den - num).natAbs = (units c * den - num).natAbs → units c = units r ∨ fmag r % 2 = 0)

/-- The place of a value that is no NaN in the order of size: its units, the infinities beyond all. -/
def valueOrder (a : Word) : Int :=
  if isInf a then (if fsign a then -(2 ^ 300) else 2 ^ 300) else units a

/-- A run to a state: `n` steps, each with a next state. -/
def runSteps : Nat → State → Option State
  | 0, s => some s
  | n + 1, s =>
    match step s with
    | .next t => runSteps n t
    | .fault _ => none
    | .refused _ => none

/-- A safe run of `n` steps: no step stops, and the block is not in the fault state after it. -/
def SafeRun (n : Nat) (s : State) : Prop := ∃ t, runSteps n s = some t ∧ t.status.fault = false

end Sys2Proof.Machine
end

