-- ==== Sys2Proof/Certificates/Slice0/Obligations.lean ====
section
/-! DEFINITION. The statements for the provers. The state `s.beginCommand` is the one a command works on: BUSY set, ARG
latched. `free` (the free-value counter) is the model's own and no statement says what it becomes. -/

open Sys2Proof Sys2Proof.Machine

/-! ### Encoding -/

/-- Every command with legal selectors, at every value its fields admit, decodes from its own word. -/
def Obligations.DecodeOfEncode : Prop :=
  ∀ i : Instr, i.wellFormed = true → decode (encode i) = .ok i

/-- Every word that decodes is the word of the command it decodes to: no bit of it is ignored. -/
def Obligations.EncodeOfDecode : Prop :=
  ∀ (w : Word) (i : Instr), decode w = .ok i → i.wellFormed = true ∧ encode i = w

/-- A word decodes exactly if the opcode map and the formats allow it (rules R87, R88, R91, R92). -/
def Obligations.LegalWordsDecode : Prop :=
  ∀ w : Word, (∃ i, decode w = .ok i) ↔ legalWord w = true

/-- Words written out from the opcode map decode to their commands; two worked illegal ones do not (rule R93). -/
def Obligations.KnownWordsDecode : Prop :=
  decode 0x00000000#32 = .ok .nop ∧ decode 0x10000000#32 = .ok (.fftR 0#4) ∧ decode 0x11000021#32 = .ok (.fftC 1#4 2#4)
    ∧ decode 0x14000302#32 = .ok (.winC 2#4 3#4) ∧ decode 0x20000003#32 = .ok (.lpDesign 3#4)
    ∧ decode 0x31000000#32 = .ok .rdCsample ∧ decode 0x40000000#32 = .ok .demodStep
    ∧ decode 0x52000000#32 = .ok .findHdr ∧ decode 0x61000009#32 = .ok (.rdSbit 9#4)
    ∧ decode 0x10000010#32 = .error .reservedBit ∧ decode 0x13000401#32 = .error .reservedBit

/-! ### Dispatch and faults -/

/-- A step whose event is a write of a command word to CMD runs exactly that command (rules R85, R230). -/
def Obligations.StepRunsDecodedCommand : Prop :=
  ∀ (s u : State) (addr : Nat) (w : Word) (i : Instr),
    s.Next (.write 4 addr w) u → s.selected addr = true → offsetOf addr = 0x00C → s.status.busy = false →
    decode w = .ok i → i.wellFormed = true ∧ step s = exec i u

/-- A word that is no command faults with IllegalCommand, records the word, and has no other effect. -/
def Obligations.IllegalWordFaults : Prop :=
  ∀ (s u : State) (addr : Nat) (w : Word),
    s.Next (.write 4 addr w) u → s.selected addr = true → offsetOf addr = 0x00C → s.status.busy = false →
    s.status.fault = false → legalWord w = false →
    ∃ t, step s = .next t ∧ FaultedWith .illegalCommand w u t

/-- In the fault state every word but SRESET's returns -8 and changes nothing, not even the fault record. -/
def Obligations.FaultGateBlocks : Prop :=
  ∀ (s u : State) (addr : Nat) (w : Word),
    s.Next (.write 4 addr w) u → s.selected addr = true → offsetOf addr = 0x00C → s.status.busy = false →
    s.status.fault = true → w ≠ 0x02000000#32 →
    ∃ t, step s = .next t ∧ Completed rcFaulted u t ∧ DataKept u t

/-- A command in a session state that the opcode map does not give it faults with BadState: INIT and LP_DESIGN outside
UNINIT, every other command but NOP and SRESET in UNINIT. -/
def Obligations.WrongSessionFaults : Prop :=
  ∀ (i : Instr) (s : State), i.wellFormed = true → s.status.fault = false →
    (((i = .init ∨ ∃ b, i = .lpDesign b) ∧ s.status.session ≠ .uninit)
      ∨ (i ≠ .init ∧ (∀ b, i ≠ .lpDesign b) ∧ i ≠ .nop ∧ i ≠ .sreset ∧ s.status.session = .uninit)) →
    ∃ t, exec i s = .next t ∧ FaultedWith .badState (encode i) s t

/-- The argument checks: a length above N, a cutoff outside (0, 1/2] or NaN, a filter bank without coefficients, a
threshold that is NaN or negative, and RD_CSAMPLE on a mono stream. -/
def Obligations.BadArgumentsFault : Prop :=
  ∀ s : State, s.status.fault = false →
    (s.status.session ≠ .uninit → s.size.n.toNat < s.arg.r0.toNat → ∀ dst src : Nibble,
      dst.toNat < 3 → src.toNat < 3 →
      (∃ t, exec (.fftR dst) s = .next t ∧ FaultedWith .badArgument (encode (.fftR dst)) s t)
        ∧ ∃ t, exec (.fftC dst src) s = .next t ∧ FaultedWith .badArgument (encode (.fftC dst src)) s t)
    ∧ (s.status.session = .uninit →
        (isNaN s.arg.r0 = true ∨ fle s.arg.r0 fzero = true ∨ fgt s.arg.r0 fhalf = true) → ∀ bank : Nibble,
        bank.toNat < 4 →
        ∃ t, exec (.lpDesign bank) s = .next t ∧ FaultedWith .badArgument (encode (.lpDesign bank)) s t)
    ∧ (s.status.session ≠ .uninit → ∀ (bank : Nibble) (b : Bank), bankOf bank = some b → s.size.taps b = 0 →
        ∃ t, exec (.lpApply bank) s = .next t ∧ FaultedWith .badArgument (encode (.lpApply bank)) s t)
    ∧ (s.status.session ≠ .uninit → (isNaN s.arg.r0 = true ∨ flt s.arg.r0 fzero = true) →
        (∃ t, exec .corrStep s = .next t ∧ FaultedWith .badArgument (encode .corrStep) s t)
          ∧ ∃ t, exec .findHdr s = .next t ∧ FaultedWith .badArgument (encode .findHdr) s t)
    ∧ (s.status.session ≠ .uninit → s.cfg.stereo = false →
        ∃ t, exec .rdCsample s = .next t ∧ FaultedWith .badState (encode .rdCsample) s t)

/-! ### Reset, NOP, SRESET -/

/-- What rule R58 says of a block right after a reset: ID reads its constant, CTRL 1, SAMPLE_OUT all ones, every other
register 0, STATUS among them; and no memory holds a byte, which is how the model says that its contents are unspecified
(log entry 5). -/
def ReadsAsReset (t : State) : Prop :=
  (∀ off : Nat, t.readReg off =
      if off = 0x000 then 0x52530007#32 else if off = 0x004 then 1#32 else if off = 0x0C4 then 0xFFFFFFFF#32 else 0#32)
    ∧ ∀ id a, t.byte id a = none

/-- Rule R58: the reset state, the state after the hardware reset input and the state after SRESET read so. That no byte is
held is the model's way to say that a memory is unspecified (log entry 5, a choice of the model). -/
def Obligations.ResetRegisters : Prop :=
  ReadsAsReset State.reset
    ∧ (∀ s u : State, s.Next .hardReset u → ∃ t, step s = .next t ∧ ReadsAsReset t)
    ∧ ∀ s : State, ∃ t, exec .sreset s = .next t ∧ ReadsAsReset t

/-- Reset satisfies the invariants that every step keeps: every memory is canonical, and `State.Inv` holds. The reset
instance and the canonical form are the model's choices (log entries 3 and 5). -/
def Obligations.ResetInvariants : Prop :=
  State.reset.mem.wf ∧ State.reset.Inv

/-- The hardware reset input, in every state. That the operand latches hold 0 and that no memory holds a byte are the
model's choices (log entries 13 and 5), not rule R280's words. -/
def Obligations.HardwareResetTakesAll : Prop :=
  ∀ s u : State, s.Next .hardReset u → ∃ t, step s = .next t ∧ ResetFrom 0#32 u t

/-- SRESET, in every session state and also in the fault state (rule R235). That the operand latches hold 0 and that no
memory holds a byte are the model's choices (log entries 13 and 5), not the rule's words. -/
def Obligations.SresetCompletes : Prop :=
  ∀ s : State, ∃ t, exec .sreset s = .next t ∧ ResetFrom 0#32 s t

/-- NOP (rule R231): RESULT = 0 and nothing else, in every session state; -8 in the fault state; the all-zero word and no
other of its OPC. -/
def Obligations.NopCompletes : Prop :=
  (∀ s : State, ∃ t, exec .nop s = .next t ∧ DataKept s t
      ∧ Completed (if s.status.fault = true then 0xFFFFFFF8#32 else 0#32) s t)
    ∧ decode 0#32 = .ok .nop ∧ ∀ w : Word, w.toNat < 2 ^ 24 → w ≠ 0#32 → ∀ i, decode w ≠ .ok i

/-! ### The HOST's accesses -/

/-- An aligned 32-bit read while the block is idle returns the window's word and changes nothing; and what the window
shows in region 0: each register of rule R23 at its offset, CTRL (R25), the fields of STATUS (R26), 0 elsewhere. -/
def Obligations.HostReadReturns : Prop :=
  (∀ (s u : State) (addr : Nat), s.Next (.read 4 addr) u → s.selected addr = true → offsetOf addr % 4 = 0 →
    s.status.busy = false →
    ∃ t, step s = .next t ∧ t.hostReads = u.windowRead (offsetOf addr) :: u.hostReads ∧ DataKept u t
      ∧ t.status = u.status ∧ t.result = u.result ∧ t.fcause = u.fcause ∧ t.finfo = u.finfo ∧ t.active = u.active
      ∧ t.arg = u.arg ∧ t.latch = u.latch ∧ t.cfg = u.cfg ∧ t.size = u.size ∧ t.inst = u.inst ∧ t.source = u.source
      ∧ t.host = u.host ∧ t.during = u.during)
    ∧ (∀ (s : State) (off : Nat) (v : Word), (off, v) ∈ registerMap s → s.windowRead off = v)
    ∧ (∀ s : State, s.windowRead 0x004 = if s.active = true then 1#32 else 0#32)
    ∧ (∀ s : State, StatusShows (s.windowRead 0x008) s.status)
    ∧ ∀ (s : State) (off : Nat), off < 2 ^ 24 → off ≠ 0x004 → off ≠ 0x008 → (∀ v, (off, v) ∉ registerMap s) →
      s.windowRead off = 0#32

/-- A register the HOST may write reads back as written, and no other register of the window changes: ARG at any time,
CFG in UNINIT. A write to CTRL gives ACTIVE bit 0 of the word, whose other bits are ignored and read 0, and changes
nothing else (rule R25). -/
def Obligations.HostWriteReadsBack : Prop :=
  (∀ (s u : State) (addr : Nat) (v : Word), s.Next (.write 4 addr v) u → s.selected addr = true →
    s.status.busy = false → offsetOf addr % 4 = 0 →
    ((0x020 ≤ offsetOf addr ∧ offsetOf addr ≤ 0x02C)
      ∨ (0x040 ≤ offsetOf addr ∧ offsetOf addr ≤ 0x074 ∧ s.status.session = .uninit)) →
    ∃ t, step s = .next t ∧ t.readReg (offsetOf addr) = v
      ∧ (∀ off, off ≠ offsetOf addr → t.readReg off = u.readReg off) ∧ t.mem = u.mem ∧ t.srcPos = u.srcPos)
    ∧ ∀ (s u : State) (addr : Nat) (v : Word), s.Next (.write 4 addr v) u → s.selected addr = true →
      s.status.busy = false → offsetOf addr = 0x004 →
      step s = .next { u with active := v.getLsbD 0 } ∧ { u with active := v.getLsbD 0 }.readReg 0x004 = v &&& 1#32

/-- An aligned 32-bit write while the block is idle, other than to CMD, faults exactly if it is not allowed; an access of
another width or at an unaligned offset always does (rule R67), CMD's included. The fault is a record and nothing else,
RESULT included; the word such a read returns is any (U2). -/
def Obligations.HostWriteAllowedExactly : Prop :=
  (∀ (s : State) (off : Nat) (v : Word), s.status.busy = false → off % 4 = 0 → off < 2 ^ 28 → off ≠ 0x00C →
    (s.WriteAllowed off → (s.hostWrite 4 off v).status = s.status ∧ (s.hostWrite 4 off v).fcause = s.fcause
      ∧ (s.hostWrite 4 off v).finfo = s.finfo)
    ∧ (¬ s.WriteAllowed off → s.hostWrite 4 off v = s.recorded off))
    ∧ (∀ (s u : State) (width addr : Nat) (v : Word), s.Next (.write width addr v) u → s.selected addr = true →
      (width ≠ 4 ∨ offsetOf addr % 4 ≠ 0) → step s = .next (u.recorded (offsetOf addr)))
    ∧ ∀ (s u : State) (width addr : Nat), s.Next (.read width addr) u → s.selected addr = true →
      (width ≠ 4 ∨ offsetOf addr % 4 ≠ 0) →
      ∃ t w, step s = .next t
        ∧ t = { u.recorded (offsetOf addr) with hostReads := w :: u.hostReads, free := t.free }

/-- While a command runs, every access but a read of STATUS and any aligned access to CTRL is a HostAccess fault, and
the only other register an access can change is CTRL: the whole state after each access. -/
def Obligations.BusyAccessesFault : Prop :=
  ∀ (s : State) (width off : Nat) (v : Word), s.status.busy = true →
    (¬ (width = 4 ∧ off = 0x004) → s.hostWrite width off v = s.recorded off)
    ∧ (width = 4 → off = 0x004 → s.hostWrite width off v = { s with active := v.getLsbD 0 })
    ∧ (width = 4 → (off = 0x004 ∨ off = 0x008) → s.hostRead width off
        = { s with hostReads := s.readReg off :: s.hostReads, free := (s.hostRead width off).free })
    ∧ (¬ (width = 4 ∧ (off = 0x004 ∨ off = 0x008)) → ∃ w, s.hostRead width off
        = { s.recorded off with hostReads := w :: s.hostReads, free := (s.hostRead width off).free })

/-- Word `i` of a region of the window (rule R62). -/
def regionWord (region i : Nat) : Nat := region * 2 ^ 24 + 4 * i

/-- The regions of rule R62 whose memory holds complex entries from the region's start on. -/
def complexRegions : List (Nat × MemId) := [(0x3, .x), (0x4, .z), (0x5, .cx), (0x6, .fm)]

/-- The map of rule R62, memory by memory, over the entries that the session uses. -/
structure MapShows (s : State) : Prop where
  hdr : ∀ i, i < s.inst.hdrMax → s.windowRead (regionWord 0x1 i) = s.readWord .hdr i &&& 1#32
  xn : ∀ i, i < s.size.n.toNat → i < s.inst.nMax → s.windowRead (regionWord 0x2 i) = s.readWord .xn i
  spectra : ∀ region id, (region, id) ∈ complexRegions → ∀ k, k < s.size.n.toNat → k < s.inst.nMax →
    s.windowRead (regionWord region (2 * k)) = (s.readCx id k).re
      ∧ s.windowRead (regionWord region (2 * k + 1)) = (s.readCx id k).im
  tw : ∀ k, k < s.size.n.toNat / 2 → k < s.inst.nMax / 2 →
    s.windowRead (regionWord 0x7 (2 * k)) = (s.readCx .tw k).re
      ∧ s.windowRead (regionWord 0x7 (2 * k + 1)) = (s.readCx .tw k).im
  wrom : ∀ w n, w < 4 → n < s.size.n.toNat → n < s.inst.nMax →
    s.windowRead (regionWord 0x8 (w * s.inst.nMax + n)) = s.readWord .wrom (w * s.inst.nMax + n)
  coef : ∀ (b : Bank) n, n < 2 * s.size.taps b → n < 2 * s.inst.tapsMax →
    s.windowRead (regionWord 0x9 (b.id * (2 * s.inst.tapsMax) + n)) = s.readWord .coef (b.id * (2 * s.inst.tapsMax) + n)
  bufs : ∀ i, i < s.size.m.toNat → i < s.inst.nMax → s.windowRead (regionWord 0xA i) = s.readWord .bufs i
  dcbuf : ∀ i, i < s.size.m.toNat → i < s.inst.nMax → s.windowRead (regionWord 0xB i) = s.readWord .dcbuf i
  iqbuf : ∀ i, i < s.size.m.toNat → i < s.inst.nMax →
    s.windowRead (regionWord 0xC (2 * i)) = (s.readCx .iqbuf i).re
      ∧ s.windowRead (regionWord 0xC (2 * i + 1)) = (s.readCx .iqbuf i).im
  lpiq : ∀ i, i < s.size.taps1.toNat → i < s.inst.tapsMax →
    s.windowRead (regionWord 0xD (2 * i)) = (s.readCx .lpiq i).re
      ∧ s.windowRead (regionWord 0xD (2 * i + 1)) = (s.readCx .lpiq i).im
  lpfm : ∀ i, i < s.size.taps3.toNat → i < s.inst.tapsMax →
    s.windowRead (regionWord 0xD (2 ^ 20 + i)) = s.readWord .lpfm i
  decbuf : ∀ i, i < s.size.taps0.toNat → i < s.inst.tapsMax →
    s.windowRead (regionWord 0xD (2 * 2 ^ 20 + 2 * i)) = (s.readCx .decbuf i).re
      ∧ s.windowRead (regionWord 0xD (2 * 2 ^ 20 + 2 * i + 1)) = (s.readCx .decbuf i).im
  template : ∀ i, i < s.size.l.toNat → i < s.inst.nMax → s.windowRead (regionWord 0xE i) = s.readWord .matchT i
  rot : ∀ i, i < s.size.rotLen.toNat → i < s.inst.rotMax →
    s.windowRead (regionWord 0xE (2 ^ 21 + 2 * i)) = (s.readCx .rot i).re
      ∧ s.windowRead (regionWord 0xE (2 ^ 21 + 2 * i + 1)) = (s.readCx .rot i).im

/-- The memories of rule R62 as (first word, words of capacity, words of address space), the reserved parts among them
with capacity 0. -/
def mapExtents (p : Config.Params) : List (Nat × Nat × Nat) :=
  [(regionWord 0x1 0, p.hdrMax, 2 ^ 22), (regionWord 0x2 0, p.nMax, 2 ^ 22), (regionWord 0x3 0, 2 * p.nMax, 2 ^ 22),
    (regionWord 0x4 0, 2 * p.nMax, 2 ^ 22), (regionWord 0x5 0, 2 * p.nMax, 2 ^ 22), (regionWord 0x6 0, 2 * p.nMax, 2 ^ 22)]
    ++ [(regionWord 0x7 0, p.nMax, 2 ^ 22), (regionWord 0x8 0, 4 * p.nMax, 2 ^ 22),
      (regionWord 0x9 0, 8 * p.tapsMax, 2 ^ 22), (regionWord 0xA 0, p.nMax, 2 ^ 22), (regionWord 0xB 0, p.nMax, 2 ^ 22),
      (regionWord 0xC 0, 2 * p.nMax, 2 ^ 22)]
    ++ [(regionWord 0xD 0, 2 * p.tapsMax, 2 ^ 20), (regionWord 0xD (2 ^ 20), p.tapsMax, 2 ^ 20),
      (regionWord 0xD (2 * 2 ^ 20), 2 * p.tapsMax, 2 ^ 20), (regionWord 0xD (3 * 2 ^ 20), 0, 2 ^ 20)]
    ++ [(regionWord 0xE 0, p.nMax, 2 ^ 21), (regionWord 0xE (2 ^ 21), 2 * p.rotMax, 2 ^ 21), (regionWord 0xF 0, 0, 2 ^ 22)]

/-- The map of rule R62: in a legal instance each memory stands in its region, entry by entry; a word beyond a memory's
capacity or in a reserved part reads 0; and no word of a memory stands at two offsets of the window. -/
def Obligations.MemoryMapOneToOne : Prop :=
  (∀ s : State, s.inst.legal = true → MapShows s)
    ∧ (∀ (s : State) (start capacity extent i : Nat), (start, capacity, extent) ∈ mapExtents s.inst → capacity ≤ i →
      i < extent → s.windowRead (start + 4 * i) = 0#32)
    ∧ ∀ (s : State) (off off' : Nat) (w w' : MapWord), off < 2 ^ 28 → off' < 2 ^ 28 → off % 4 = 0 → off' % 4 = 0 →
      s.mapWord off = some w → s.mapWord off' = some w' → w.id = w'.id → w.idx = w'.idx → off = off'

/-- A write to XN, X, Z or CX in READY, within what the session uses, reads back as written, and one to HDR in UNINIT as
its bit 0 (rule R62); every other byte of every memory is unchanged. -/
def Obligations.HostMemoryReadsBack : Prop :=
  (∀ (s : State) (off : Nat) (v : Word), s.status.busy = false → s.status.session = .ready → off % 4 = 0 →
    2 * 2 ^ 24 ≤ off → off < 6 * 2 ^ 24 →
    ∀ w, s.mapWord off = some w → w.inCapacity = true → w.inSession = true →
      (s.hostWrite 4 off v).windowRead off = v
        ∧ ∀ id a, outsideWords id w.id w.idx 1 a → (s.hostWrite 4 off v).byte id a = s.byte id a)
    ∧ ∀ (s : State) (i : Nat) (v : Word), s.status.busy = false → s.status.session = .uninit → s.inst.legal = true →
      i < s.inst.hdrMax →
      (s.hostWrite 4 (regionWord 0x1 i) v).windowRead (regionWord 0x1 i) = v &&& 1#32
        ∧ (∀ id a, outsideWords id .hdr i 1 a → (s.hostWrite 4 (regionWord 0x1 i) v).byte id a = s.byte id a)
        ∧ s.hostWrite 4 (regionWord 0x1 i) v = { s with mem := (s.hostWrite 4 (regionWord 0x1 i) v).mem }

/-! ### The SOURCE and ingestion -/

/-- Conversion (rule R142): 8-bit samples are (raw - 128)/128 exactly, 16-bit ones the signed word over 32768 exactly, both
with +0 for zero; 32 bits pass. -/
def Obligations.ConversionExact : Prop :=
  ∀ raw : Word,
    (isFinite (convSample 8 raw) = true
      ∧ units (convSample 8 raw) * 128 = ((raw.toNat % 256 : Nat) - 128 : Int) * 2 ^ 149)
    ∧ (isFinite (convSample 16 raw) = true
      ∧ units (convSample 16 raw) * 32768 = (raw.setWidth 16).toInt * 2 ^ 149)
    ∧ (raw.toNat % 256 = 128 → convSample 8 raw = fzero) ∧ (raw.toNat % 65536 = 0 → convSample 16 raw = fzero)
    ∧ convSample 32 raw = raw

/-- RD_SAMPLE in READY with a frame left. -/
def Obligations.RdSampleCompletes : Prop :=
  ∀ s : State, s.status.fault = false → s.status.session = .ready → s.status.eos = false →
    s.framesLeft 1 = true →
    ∃ t, exec .rdSample s = .next t ∧ Completed 0#32 s t
      ∧ t.res.r0 = convSample s.cfg.bps
          (if s.cfg.stereo = true ∧ s.cfg.chsel = true then (s.source.frame s.srcPos).r1
            else (s.source.frame s.srcPos).r0)
      ∧ t.res = { s.res with r0 := t.res.r0 }
      ∧ t.run = s.run ∧ t.srcPos = s.srcPos + 1 ∧ ∀ id a, t.byte id a = s.byte id a

/-- RD_CSAMPLE in READY on a stereo stream with a frame left: the estimate from before the sample is subtracted, then
the estimator takes the raw sample. -/
def Obligations.RdCsampleCompletes : Prop :=
  ∀ s : State, s.status.fault = false → s.status.session = .ready → s.status.eos = false → s.cfg.stereo = true →
    s.framesLeft 1 = true →
    ∃ t, exec .rdCsample s = .next t ∧ Completed 0#32 s t
      ∧ t.res = { s.res with
          r0 := fsub (convSample s.cfg.bps (s.source.frame s.srcPos).r0) s.run.iqdcAvgX
          r1 := fsub (convSample s.cfg.bps (s.source.frame s.srcPos).r1) s.run.iqdcAvgY }
      ∧ t.run = (s.iqdcUpdate (convSample s.cfg.bps (s.source.frame s.srcPos).r0)
          (convSample s.cfg.bps (s.source.frame s.srcPos).r1)).run
      ∧ t.srcPos = s.srcPos + 1 ∧ ∀ id a, t.byte id a = s.byte id a

/-- The IQ DC estimator (rule R146): a sample inside a window, and the last sample of one. -/
def Obligations.IqdcEstimator : Prop :=
  ∀ (s : State) (x y : Word),
    (s.run.iqdcCnt + 1#32 ≠ s.run.iqdcMaxCnt → s.iqdcUpdate x y = { s with run := { s.run with
        iqdcSumX := fadd s.run.iqdcSumX x, iqdcSumY := fadd s.run.iqdcSumY y, iqdcCnt := s.run.iqdcCnt + 1#32 } })
    ∧ (s.run.iqdcCnt + 1#32 = s.run.iqdcMaxCnt → s.iqdcUpdate x y = { s with run := { s.run with
        iqdcAvgX := fdiv (fadd s.run.iqdcSumX x) (i2f s.run.iqdcMaxCnt.toNat)
        iqdcAvgY := fdiv (fadd s.run.iqdcSumY y) (i2f s.run.iqdcMaxCnt.toNat)
        iqdcSumX := fzero, iqdcSumY := fzero, iqdcCnt := 0#32
        iqdcMaxCnt := if s.run.iqdcMaxCnt.toNat < s.cfg.sr.toNat * s.size.decm.toNat then 2#32 * s.run.iqdcMaxCnt
          else s.run.iqdcMaxCnt } })

/-- RD_SAMPLE, RD_CSAMPLE and DEMOD_STEP where the SOURCE has fewer frames left than they need: EOS, and nothing but
STATUS, RESULT and the SOURCE's position changes. -/
def Obligations.StreamEndsCleanly : Prop :=
  ∀ (i : Instr) (need : Nat) (s : State), s.status.fault = false → s.status.session = .ready → s.status.eos = false →
    ((i = .rdSample ∧ need = 1) ∨ (i = .rdCsample ∧ need = 1 ∧ s.cfg.stereo = true)
      ∨ (i = .demodStep ∧ need = if s.cfg.iq = true ∧ s.cfg.decim = true then s.size.decm.toNat else 1)) →
    s.framesLeft need = false →
    ∃ t, exec i s = .next t ∧ Kept s t ∧ t.result = 0xFFFFFFFF#32
      ∧ t.status = { s.status with busy := false, eos := true, session := .ended }
      ∧ t.srcPos = s.source.frames.length ∧ t.res = s.res ∧ t.run = s.run ∧ ∀ id a, t.byte id a = s.byte id a

/-- In ENDED the six stream commands return -1 after the end of the stream, else -5, and change nothing (R251 c). -/
def Obligations.EndedCommandsReturn : Prop :=
  ∀ (i : Instr) (s : State), s.status.fault = false → s.status.session = .ended →
    (i = .rdSample ∨ (i = .rdCsample ∧ s.cfg.stereo = true) ∨ i = .demodStep
      ∨ (i = .findHdr ∧ isNaN s.arg.r0 = false ∧ flt s.arg.r0 fzero = false)
      ∨ (∃ f, i = .rdHbit f) ∨ ∃ f, i = .rdSbit f) →
    ∃ t, exec i s = .next t ∧ DataKept s t
      ∧ Completed (if s.status.eos = true then 0xFFFFFFFF#32 else 0xFFFFFFFB#32) s t

/-! ### The demodulator -/

/-- DEMOD_STEP in real mode: the frame's sample goes to BUFS and RES0, the two counters move on, nothing else changes. -/
def Obligations.DemodStepRealCompletes : Prop :=
  ∀ s : State, s.status.fault = false → s.status.session = .ready → s.status.eos = false → s.cfg.iq = false →
    s.framesLeft 1 = true →
    ∃ t v, exec .demodStep s = .next t ∧ Completed 0#32 s t
      ∧ v = convSample s.cfg.bps
          (if s.cfg.stereo = true ∧ s.cfg.chsel = true then (s.source.frame s.srcPos).r1
            else (s.source.frame s.srcPos).r0)
      ∧ t.res = { s.res with r0 := v }
      ∧ t.readWord .bufs (s.run.sampleIn.toNat % s.size.m.toNat) = v
      ∧ t.run = { s.run with sampleIn := s.run.sampleIn + 1#32, sampleOut := s.run.sampleIn - s.cfg.delay }
      ∧ t.srcPos = s.srcPos + 1
      ∧ ∀ id a, outsideWords id .bufs (s.run.sampleIn.toNat % s.size.m.toNat) 1 a → t.byte id a = s.byte id a

/-- What the acquisition of a complex sample does (rules R145, R149, R151): without DECIM one frame, less the DC estimate
from before it, which then advances; with DECIM one frame after the other through the rotator into DECBUF, SDEC
counting, and then the decimation filter on the line as it stands. -/
def AcquisitionStages : Prop :=
  (∀ s : State, s.cfg.decim = false → s.status.eos = false → s.framesLeft 1 = true →
    let x := convSample s.cfg.bps (s.source.frame s.srcPos).r0
    let y := convSample s.cfg.bps (s.source.frame s.srcPos).r1
    acquire s = (some ⟨fsub x s.run.iqdcAvgX, fsub y s.run.iqdcAvgY⟩,
      { s with srcPos := s.srcPos + 1, run := (s.iqdcUpdate x y).run }))
    ∧ (∀ (s : State) (f : Frame),
      let x := convSample s.cfg.bps f.r0
      let y := convSample s.cfg.bps f.r1
      let at0 := s.run.sdec.toNat % s.size.taps0.toNat
      let t := s.rotateIn f
      t.readCx .decbuf at0 = cmul ⟨fsub x s.run.iqdcAvgX, fsub y s.run.iqdcAvgY⟩
          (s.readCx .rot (s.run.sdec.toNat % s.size.rotLen.toNat))
        ∧ (∀ id a, outsideWords id .decbuf (2 * at0) 2 a → t.byte id a = s.byte id a)
        ∧ t = { s with
            mem := t.mem
            run := { (s.iqdcUpdate x y).run with
              sdec := BitVec.ofNat 32 ((s.run.sdec.toNat + 1) % (s.size.taps0.toNat * s.size.rotLen.toNat)) } })
    ∧ ∀ s : State, s.cfg.decim = true → s.status.eos = false → s.framesLeft s.size.decm.toNat = true →
      let u := ((List.range s.size.decm.toNat).map (fun k => s.source.frame (s.srcPos + k))).foldl State.rotateIn
        { s with srcPos := s.srcPos + s.size.decm.toNat }
      let newest := (u.run.sdec.toNat + u.size.taps0.toNat - 1) % u.size.taps0.toNat
      acquire s = (some ⟨u.filterOutput (fun i => (u.readCx .decbuf i).re) 0 newest u.size.taps0.toNat,
        u.filterOutput (fun i => (u.readCx .decbuf i).im) 0 newest u.size.taps0.toNat⟩, u)

/-- DEMOD_STEP in every mode, with the frames it needs left: what it leaves alone, its counters, and RES0 as the new
entry of BUFS; and in IQ mode the acquisition, and that the stages of rule R160 (DiscriminatorTakesPhaseStep) take the
acquired sample to RES0 and leave the registers and every memory but BUFS as they stand after the command. -/
def Obligations.DemodStepCompletes : Prop :=
  (∀ s : State, s.status.fault = false → s.status.session = .ready → s.status.eos = false →
    s.framesLeft (if s.cfg.iq = true ∧ s.cfg.decim = true then s.size.decm.toNat else 1) = true →
    ∃ t, exec .demodStep s = .next t ∧ Completed 0#32 s t ∧ SampleKept s t
      ∧ t.run.sampleIn = s.run.sampleIn + 1#32 ∧ t.run.sampleOut = t.run.sampleIn - 1#32 - s.cfg.delay
      ∧ t.res = { s.res with r0 := t.readWord .bufs (s.run.sampleIn.toNat % s.size.m.toNat) }
      ∧ t.srcPos = s.srcPos + (if s.cfg.iq = true ∧ s.cfg.decim = true then s.size.decm.toNat else 1)
      ∧ (∀ id a, sampleMem id = false → t.byte id a = s.byte id a)
      ∧ (∀ a, outsideWords .bufs .bufs (s.run.sampleIn.toNat % s.size.m.toNat) 1 a → t.byte .bufs a = s.byte .bufs a)
      ∧ (s.cfg.iq = true → ∃ z u, acquire s.beginCommand = (some z, u)
        ∧ t.res.r0 = (u.iqStages s.run.sampleIn z).1
        ∧ t.run = { (u.iqStages s.run.sampleIn z).2.run with
            sampleIn := t.run.sampleIn, sampleOut := t.run.sampleOut }
        ∧ ∀ id a, id ≠ .bufs → t.byte id a = (u.iqStages s.run.sampleIn z).2.byte id a))
    ∧ AcquisitionStages

/-- The stages of a sample step in IQ mode (rules R163 to R168), `t` being the state after them, `y` the sample after
de-rotation and IF filtering and `v` the discriminator's output. Each optional stage that is off passes its input and
leaves its line and pointer alone; a filter writes its input at its pointer, sums over the line with its bank and moves
the pointer on. Nothing but two pointers and the words named changes. -/
def Obligations.DiscriminatorTakesPhaseStep : Prop :=
  (∀ (s : State) (n : Word),
    (isFinite s.run.df = true → s.derot n = cis s.inst.num (-(units s.run.df * n.toNat)) (s.cfg.sr.toNat * 2 ^ 149))
    ∧ (isFinite s.run.df = false → isNaN (s.derot n).re = true ∧ isNaN (s.derot n).im = true))
  ∧ ∀ (s t : State) (n out : Word) (z : Cx), s.iqStages n z = (out, t) →
    ∃ (x y : Cx) (v : Word),
      x = (if s.cfg.derot = true then cmul z (s.derot n) else z)
      ∧ (s.cfg.lpIq = false → y = x ∧ t.run.lpiqWp = s.run.lpiqWp ∧ ∀ a, t.byte .lpiq a = s.byte .lpiq a)
      ∧ (s.cfg.lpIq = true →
        let wp := s.run.lpiqWp.toNat
        let taps := s.size.taps1.toNat
        let bank := if s.status.locked = true then 2 else 1
        t.readCx .lpiq wp = x ∧ (∀ a, outsideWords .lpiq .lpiq (2 * wp) 2 a → t.byte .lpiq a = s.byte .lpiq a)
          ∧ t.run.lpiqWp = BitVec.ofNat 32 ((wp + 1) % taps)
          ∧ y = ⟨t.filterOutput (fun i => (t.readCx .lpiq i).re) bank wp taps,
              t.filterOutput (fun i => (t.readCx .lpiq i).im) bank wp taps⟩)
      ∧ v = (let w := cmul y (conj (s.readCx .iqbuf ((n - 1#32).toNat % s.size.m.toNat)))
          fmul s.inst.gain (atan2pi s.inst.num w.im w.re))
      ∧ t.readCx .iqbuf (n.toNat % s.size.m.toNat) = y
      ∧ (∀ a, outsideWords .iqbuf .iqbuf (2 * (n.toNat % s.size.m.toNat)) 2 a → t.byte .iqbuf a = s.byte .iqbuf a)
      ∧ t.readWord .dcbuf (n.toNat % s.size.m.toNat) = v
      ∧ (∀ a, outsideWords .dcbuf .dcbuf (n.toNat % s.size.m.toNat) 1 a → t.byte .dcbuf a = s.byte .dcbuf a)
      ∧ (s.cfg.lpFm = false → out = v ∧ t.run.lpfmWp = s.run.lpfmWp ∧ ∀ a, t.byte .lpfm a = s.byte .lpfm a)
      ∧ (s.cfg.lpFm = true →
        let wp := s.run.lpfmWp.toNat
        let taps := s.size.taps3.toNat
        t.readWord .lpfm wp = v ∧ (∀ a, outsideWords .lpfm .lpfm wp 1 a → t.byte .lpfm a = s.byte .lpfm a)
          ∧ t.run.lpfmWp = BitVec.ofNat 32 ((wp + 1) % taps)
          ∧ out = t.filterOutput (t.readWord .lpfm) 3 wp taps)
      ∧ (∀ id a, id ≠ .lpiq → id ≠ .iqbuf → id ≠ .dcbuf → id ≠ .lpfm → t.byte id a = s.byte id a)
      ∧ t = { s with mem := t.mem, run := { s.run with lpiqWp := t.run.lpiqWp, lpfmWp := t.run.lpfmWp } }

/-- The lock detector (rule R170) and the carrier loop (rule R169): DF and LOCKED, and nothing else. -/
def Obligations.CarrierLoop : Prop :=
  ∀ s : State, s.carrierUpdate = { s with
    run := { s.run with df := fadd s.run.df (fmul s.cfg.loopg s.run.ddf) }
    status := { s.status with
      locked :=
        if s.status.locked = true ∧ fgt (fabs s.run.ddf) s.inst.fLock = true then false
        else if s.status.locked = false ∧ flt (fabs s.run.ddf) s.inst.fLock = true then true
        else s.status.locked } }

/-- The exact points that rule R13 requires of every instance's ATAN2PI, its range [-1, +1], and its NaN rule; and the
reference values where an operand is infinite (log entry 16, the model's reading). -/
def Obligations.AngleExactPoints : Prop :=
  (∀ (num : Config.Num) (y x : Word),
    (isZero y = true → isZero x = true → atan2pi num y x = fzero)
    ∧ (isZero y = true → flt fzero x = true → atan2pi num y x = fzero)
    ∧ (isZero x = true → flt fzero y = true → atan2pi num y x = fhalf)
    ∧ (isZero x = true → flt y fzero = true → atan2pi num y x = fneg fhalf)
    ∧ (flt x fzero = true → atan2pi num fzero x = fone ∧ atan2pi num fnegZero x = fneg fone)
    ∧ ((isNaN y = true ∨ isNaN x = true) → isNaN (atan2pi num y x) = true)
    ∧ (isNaN y = false → isNaN x = false →
      fle (fneg fone) (atan2pi num y x) = true ∧ fle (atan2pi num y x) fone = true))
    ∧ ∀ y x : Word,
      (isFinite y = true → isInf x = true → flt fzero x = true → atan2pi .reference y x = fzero)
      ∧ (isFinite y = true → isInf x = true → flt x fzero = true →
        atan2pi .reference y x = if fsign y = true then fneg fone else fone)
      ∧ (isInf y = true → isFinite x = true →
        atan2pi .reference y x = if fsign y = true then fneg fhalf else fhalf)
      ∧ (isInf y = true → isInf x = true →
        units (atan2pi .reference y x) * 4
          = (if fsign y = true then -1 else 1) * (if fsign x = true then 3 else 1) * 2 ^ 149)

/-- The exact points and the period that rule R13 requires of every instance's CIS; the turn is `n/d`. -/
def Obligations.TurnExactPoints : Prop :=
  ∀ (num : Config.Num) (n : Int) (d : Nat), 0 < d →
    cis num 0 d = ⟨fone, fzero⟩ ∧ cis num d (4 * d) = ⟨fzero, fone⟩ ∧ cis num (2 * d : Nat) (4 * d) = ⟨fneg fone, fzero⟩
      ∧ cis num (3 * d : Nat) (4 * d) = ⟨fzero, fneg fone⟩ ∧ cis num (n + d) d = cis num n d
      ∧ ∀ k : Nat, 0 < k → cis num (k * n) (k * d) = cis num n d

/-! ### The transform engine -/

/-- The permutation of rule R102: `reverseBits` reverses the low bits of an index, and the exchanges put at every index
the entry from the index with its bits reversed. -/
def ReversalPermutes : Prop :=
  (∀ k i : Nat, reverseBits k i < 2 ^ k ∧ ∀ j, j < k → (reverseBits k i).testBit j = i.testBit (k - 1 - j))
    ∧ ∀ (k : Nat) (b : List Cx), b.length = 2 ^ k →
      bitReversal k (2 ^ k) b = (List.range (2 ^ k)).map (fun i => b.getD (reverseBits k i) czero)

/-- One pass of rule R103 over `2^k` entries in closed form: entry `i` of the lower half of its span of `2·2^p` is the sum
with its partner times the twiddle, one of the upper half the difference. -/
def PassIsButterflies : Prop :=
  ∀ (tw b : List Cx) (k p : Nat), p < k → b.length = 2 ^ k →
    fftPass tw (2 ^ k) b p = (List.range (2 ^ k)).map (fun i =>
      let w := tw.getD (i % 2 ^ p * 2 ^ (k - 1 - p)) czero
      if i % 2 ^ (p + 1) < 2 ^ p then cadd (b.getD i czero) (cmul (b.getD (i + 2 ^ p) czero) w)
      else csub (b.getD (i - 2 ^ p) czero) (cmul (b.getD i czero) w))

/-- The transform engine (rules R102, R103): its four-point case written out; and for every size the bit reversal as a
permutation, one pass in closed form, their order in the whole, and the session's sizes and twiddle ROM in it. -/
def Obligations.FourPointTransform : Prop :=
  (∀ w0 w1 a b c d : Cx,
    fftCore [w0, w1] 2 4 [a, b, c, d] =
      [cadd (cadd a (cmul c w0)) (cmul (cadd b (cmul d w0)) w0),
        cadd (csub a (cmul c w0)) (cmul (csub b (cmul d w0)) w1),
        csub (cadd a (cmul c w0)) (cmul (cadd b (cmul d w0)) w0),
        csub (csub a (cmul c w0)) (cmul (csub b (cmul d w0)) w1)])
    ∧ ReversalPermutes ∧ PassIsButterflies
    ∧ (∀ (tw b : List Cx) (k n : Nat),
      fftCore tw k n b = (List.range k).foldl (fun acc p => fftPass tw n acc p) (bitReversal k n b))
    ∧ ∀ (s : State) (b : List Cx), s.transform b
      = fftCore ((List.range (s.size.n.toNat / 2)).map (s.readCx .tw)) s.size.log2n.toNat s.size.n.toNat b

/-- FFT_R: the first ARG0 samples of XN, zero-padded, transformed into the destination. -/
def Obligations.FftRealCompletes : Prop :=
  ∀ (dst : Nibble) (d : MemId) (s : State), bufferOf dst = some d → s.status.fault = false →
    s.status.session ≠ .uninit → s.arg.r0.toNat ≤ s.size.n.toNat →
    ∃ t, exec (.fftR dst) s = .next t ∧ Completed 0#32 s t ∧ WritesOnly s t d 0 (2 * s.size.n.toNat)
      ∧ ∀ k, k < s.size.n.toNat →
        t.readCx d k = (s.beginCommand.transform ((List.range s.size.n.toNat).map (fun i =>
          if i < s.arg.r0.toNat then ⟨s.beginCommand.readWord .xn i, fzero⟩ else czero))).getD k czero

/-- FFT_C: the first ARG0 entries of the source, zero-padded, transformed into the destination, which may be the
source. -/
def Obligations.FftComplexCompletes : Prop :=
  ∀ (dst src : Nibble) (d b : MemId) (s : State), bufferOf dst = some d → bufferOf src = some b →
    s.status.fault = false → s.status.session ≠ .uninit → s.arg.r0.toNat ≤ s.size.n.toNat →
    ∃ t, exec (.fftC dst src) s = .next t ∧ Completed 0#32 s t ∧ WritesOnly s t d 0 (2 * s.size.n.toNat)
      ∧ ∀ k, k < s.size.n.toNat →
        t.readCx d k = (s.beginCommand.transform ((List.range s.size.n.toNat).map (fun i =>
          if i < s.arg.r0.toNat then s.beginCommand.readCx b i else czero))).getD k czero

/-- IFFT_N: the conjugated source transformed into the destination, unscaled. -/
def Obligations.InverseCompletes : Prop :=
  ∀ (dst src : Nibble) (d b : MemId) (s : State), bufferOf dst = some d → bufferOf src = some b →
    s.status.fault = false → s.status.session ≠ .uninit →
    ∃ t, exec (.ifftN dst src) s = .next t ∧ Completed 0#32 s t ∧ WritesOnly s t d 0 (2 * s.size.n.toNat)
      ∧ ∀ k, k < s.size.n.toNat →
        t.readCx d k
          = (s.beginCommand.transform ((s.beginCommand.readCxs b s.size.n.toNat).map conj)).getD k czero

/-- WIN_R: every sample of XN times the window's. -/
def Obligations.WindowRealCompletes : Prop :=
  ∀ (wsel : Nibble) (w : Window) (s : State), windowOf wsel = some w → s.status.fault = false →
    s.status.session ≠ .uninit →
    ∃ t, exec (.winR wsel) s = .next t ∧ Completed 0#32 s t ∧ WritesOnly s t .xn 0 s.size.n.toNat
      ∧ ∀ k, k < s.size.n.toNat →
        t.readWord .xn k
          = fmul (s.beginCommand.readWord .xn k) (s.beginCommand.readWord .wrom (w.id * s.inst.nMax + k))

/-- WIN_C: every entry of the buffer times the window's sample. -/
def Obligations.WindowComplexCompletes : Prop :=
  ∀ (dst wsel : Nibble) (d : MemId) (w : Window) (s : State), bufferOf dst = some d → windowOf wsel = some w →
    s.status.fault = false → s.status.session ≠ .uninit →
    ∃ t, exec (.winC dst wsel) s = .next t ∧ Completed 0#32 s t ∧ WritesOnly s t d 0 (2 * s.size.n.toNat)
      ∧ ∀ k, k < s.size.n.toNat →
        t.readCx d k
          = cscale (s.beginCommand.readCx d k) (s.beginCommand.readWord .wrom (w.id * s.inst.nMax + k))

/-- CMUL: every entry of the source times the matched-filter spectrum's. -/
def Obligations.SpectrumProductCompletes : Prop :=
  ∀ (dst src : Nibble) (d b : MemId) (s : State), bufferOf dst = some d → bufferOf src = some b →
    s.status.fault = false → s.status.session ≠ .uninit →
    ∃ t, exec (.cmul dst src) s = .next t ∧ Completed 0#32 s t ∧ WritesOnly s t d 0 (2 * s.size.n.toNat)
      ∧ ∀ k, k < s.size.n.toNat →
        t.readCx d k = cmul (s.beginCommand.readCx b k) (s.beginCommand.readCx .fm k)

/-! ### The filters -/

/-- LP_DESIGN in UNINIT with a cutoff in (0, 1/2]: a request above TAPS_MAX returns -3 and writes nothing; else the
coefficients stand twice in the bank, symmetric, exact for one tap and for the cutoff 1/2 (rule R123), and RES0 and
S_TAPSb hold the odd tap count. Where the exact sum S of rule R121 is 0, for which `lowpassSumIsZero` is the model's
test (log entry 18), it is a BadArgument fault; the rule knows of no legal cutoff and tap count with that sum. -/
def Obligations.LpDesignCompletes : Prop :=
  ∀ (bank : Nibble) (b : Bank) (s : State) (taps : Nat), bankOf bank = some b → s.status.fault = false →
    s.status.session = .uninit → flt fzero s.arg.r0 = true → fle s.arg.r0 fhalf = true →
    taps = (if s.arg.r1.toNat % 2 = 1 then s.arg.r1.toNat else s.arg.r1.toNat + 1) →
    (s.inst.tapsMax < taps →
      ∃ t, exec (.lpDesign bank) s = .next t ∧ Completed 0xFFFFFFFD#32 s t ∧ DataKept s t)
    ∧ (taps ≤ s.inst.tapsMax → lowpassSumIsZero s.arg.r0 taps = true →
      ∃ t, exec (.lpDesign bank) s = .next t ∧ FaultedWith .badArgument (encode (.lpDesign bank)) s t)
    ∧ (taps ≤ s.inst.tapsMax → lowpassSumIsZero s.arg.r0 taps = false →
      ∃ t, exec (.lpDesign bank) s = .next t ∧ Base s t ∧ t.result = 0#32 ∧ t.status = { s.status with busy := false }
        ∧ t.fcause = s.fcause ∧ t.finfo = s.finfo ∧ t.size = s.size.setTaps b (BitVec.ofNat 32 taps)
        ∧ t.res = { s.res with r0 := BitVec.ofNat 32 taps } ∧ t.run = s.run ∧ t.srcPos = s.srcPos
        ∧ (∀ n, n < taps →
            t.readWord .coef (b.id * (2 * s.inst.tapsMax) + n) = (lowpassCoefs s.arg.r0 taps).getD n fzero
            ∧ t.readWord .coef (b.id * (2 * s.inst.tapsMax) + taps + n) = (lowpassCoefs s.arg.r0 taps).getD n fzero
            ∧ t.readWord .coef (b.id * (2 * s.inst.tapsMax) + (taps - 1 - n))
              = t.readWord .coef (b.id * (2 * s.inst.tapsMax) + n))
        ∧ (taps = 1 → t.readWord .coef (b.id * (2 * s.inst.tapsMax)) = fone)
        ∧ (s.arg.r0 = fhalf → ∀ n, n < taps → t.readWord .coef (b.id * (2 * s.inst.tapsMax) + n)
            = if n = (taps - 1) / 2 then fone else fzero)
        ∧ ∀ id a, outsideWords id .coef (b.id * (2 * s.inst.tapsMax)) (2 * taps) a → t.byte id a = s.byte id a)

/-- LP_APPLY on a bank with coefficients (rules R125, R127): RES0 and RES1 are the ordered sums of rule R125 over the
bank's delay line, whose newest entry stands one before the write index; bank 3 is real. Nothing else changes. -/
def Obligations.LpApplyCompletes : Prop :=
  ∀ (bank : Nibble) (b : Bank) (s : State), bankOf bank = some b → s.status.fault = false →
    s.status.session ≠ .uninit → s.size.taps b ≠ 0 →
    ∃ t, exec (.lpApply bank) s = .next t ∧ Completed 0#32 s t
      ∧ t.res = { s.res with r0 := t.res.r0, r1 := t.res.r1 }
      ∧ (b = .fm →
        let newest := (s.run.lpfmWp.toNat + s.size.taps3.toNat - 1) % s.size.taps3.toNat
        t.res.r0 = t.filterOutput (t.readWord .lpfm) 3 newest s.size.taps3.toNat ∧ t.res.r1 = fzero)
      ∧ (b = .decim →
        let newest := (s.run.sdec.toNat + s.size.taps0.toNat - 1) % s.size.taps0.toNat
        t.res.r0 = t.filterOutput (fun i => (t.readCx .decbuf i).re) 0 newest s.size.taps0.toNat
          ∧ t.res.r1 = t.filterOutput (fun i => (t.readCx .decbuf i).im) 0 newest s.size.taps0.toNat)
      ∧ (b = .iqAcq ∨ b = .iqLock →
        let newest := (s.run.lpiqWp.toNat + s.size.taps b - 1) % s.size.taps b
        t.res.r0 = t.filterOutput (fun i => (t.readCx .lpiq i).re) b.id newest (s.size.taps b)
          ∧ t.res.r1 = t.filterOutput (fun i => (t.readCx .lpiq i).im) b.id newest (s.size.taps b))
      ∧ t.run = s.run ∧ t.srcPos = s.srcPos ∧ ∀ id a, t.byte id a = s.byte id a

/-! ### The correlator -/

/-- CORR_STEP with a legal threshold: what it returns in each of the three outcomes, what it writes, and that it writes
nothing else. The outcome is that of the pass `bestPass` chooses (RetryAdoption): its mean, index, position and score. -/
def Obligations.CorrStepCompletes : Prop :=
  ∀ s : State, s.status.fault = false → s.status.session ≠ .uninit → isNaN s.arg.r0 = false →
    flt s.arg.r0 fzero = false →
    ∃ t r path u, exec .corrStep s = .next t ∧ s.beginCommand.bestPass s.arg.r0 = (r, path, u)
      ∧ Kept s t ∧ t.status = { s.status with busy := false } ∧ t.srcPos = s.srcPos
      ∧ t.run = { s.run with
          mv := t.run.mv, mvPos := t.run.mvPos, dc := t.run.dc, ddf := t.run.ddf, buffered := t.run.buffered }
      ∧ t.run.ddf = fdiv (fmul (i2f s.cfg.sr.toNat) t.run.dc) (fmul ftwo s.inst.gain)
      ∧ t.res.r1 = t.run.mv ∧ t.res.r2 = t.run.mvPos ∧ t.res.r3 = (if path = true then 1#32 else 0#32)
      ∧ (path = true → s.cfg.iq = true ∧ s.cfg.dcMode = true)
      ∧ (∀ id a, t.byte id a = u.byte id a) ∧ (∀ id a, corrMem id = false → t.byte id a = s.byte id a)
      ∧ ((r = .noPeak t.run.dc ∧ t.result = 0#32 ∧ t.res.r0 = 0xFFFFFFFF#32 ∧ t.run.mv = fzero
            ∧ t.run.mvPos = s.run.mvPos ∧ t.run.buffered = s.run.buffered)
        ∨ (∃ mp, r = .boundary t.run.dc mp ∧ t.result = 0xFFFFFFFC#32 ∧ t.run.mv = fzero ∧ t.run.mvPos = s.run.mvPos
            ∧ t.run.buffered = s.run.buffered ∧ t.res.r0 = BitVec.ofNat 32 mp
            ∧ (mp = s.size.l.toNat - 1 ∨ mp = s.size.k.toNat + s.size.l.toNat - 1))
        ∨ (∃ mp, r = .ok t.run.dc mp t.run.mvPos t.run.mv ∧ t.result = 0#32 ∧ t.res.r0 = BitVec.ofNat 32 mp
            ∧ t.run.buffered = s.run.sampleOut - t.run.mvPos
            ∧ t.run.mvPos = s.run.sampleOut - BitVec.ofNat 32 (s.size.k.toNat + s.size.l.toNat - 1) + BitVec.ofNat 32 mp
              + (if path = true then s.cfg.gdelay else 0#32)))

/-- The peak search: no value in the window beats the maximum, which is the first of its size (rule R191). -/
def Obligations.PeakIsFirstMaximum : Prop :=
  ∀ s : State,
    (∀ i, s.size.l.toNat - 1 ≤ i → i ≤ s.size.l.toNat - 1 + s.size.k.toNat →
      fgt (fmul (s.readCx .cx i).re (s.readCx .cx i).re) s.findPeak.mx2 = false)
    ∧ (s.findPeak.mp = none → s.findPeak.mx2 = fzero)
    ∧ ∀ m, s.findPeak.mp = some m →
      s.size.l.toNat - 1 ≤ m ∧ m ≤ s.size.l.toNat - 1 + s.size.k.toNat ∧ s.findPeak.mx = (s.readCx .cx m).re
        ∧ s.findPeak.mx2 = fmul s.findPeak.mx s.findPeak.mx ∧ fgt s.findPeak.mx2 fzero = true
        ∧ ∀ i, s.size.l.toNat - 1 ≤ i → i < m →
          isNaN (fmul (s.readCx .cx i).re (s.readCx .cx i).re) = true
            ∨ fgt s.findPeak.mx2 (fmul (s.readCx .cx i).re (s.readCx .cx i).re) = true

/-- What one pass over BUFS or DCBUF does (rules R187 to R193): `window` is the window of K+L samples that ends at
SAMPLE_OUT, zero-padded; `spectrum` its transform, whose bin 0 gives the mean and is then cleared if `dcz`; `signal`
the time signal, rebuilt if `dcz`. XN, X, Z and CX hold what the rules leave there, and nothing else changes; the peak is
`findPeak`'s (PeakIsFirstMaximum), and its score is normalised by the L samples of `signal` that end there and by N. -/
def CorrelationPass : Prop :=
  ∀ (s u : State) (buf : MemId) (dcz : Bool) (r : PassResult), buf = .bufs ∨ buf = .dcbuf → 1 ≤ s.size.n.toNat →
    s.corrPass buf dcz = (r, u) →
    let n := s.size.n.toNat
    let len := s.size.k.toNat + s.size.l.toNat
    let position (i : Nat) : Word := s.run.sampleOut - BitVec.ofNat 32 (len - 1) + BitVec.ofNat 32 i
    let window (i : Nat) : Word := if i < len then s.readWord buf ((position i).toNat % s.size.m.toNat) else fzero
    let spectrum := s.transform ((List.range n).map (fun i => ⟨window i, fzero⟩))
    let cleared := if dcz = true then spectrum.set 0 czero else spectrum
    let rebuilt := s.transform (cleared.map conj)
    let signal (i : Nat) : Word := if dcz = true then fdiv (rebuilt.getD i czero).re (i2f n) else window i
    let product := (List.range n).map (fun k => cmul (cleared.getD k czero) (s.readCx .fm k))
    let dc := fdiv (spectrum.getD 0 czero).re (i2f len)
    (∀ i, i < n → u.readWord .xn i = signal i ∧ u.readCx .x i = cleared.getD i czero
      ∧ u.readCx .z i = product.getD i czero ∧ u.readCx .cx i = (s.transform (product.map conj)).getD i czero)
    ∧ u = { s with mem := u.mem }
    ∧ (∀ id a, corrMem id = false → u.byte id a = s.byte id a)
    ∧ (∀ id a, corrMem id = true → 4 * (if id = .xn then n else 2 * n) ≤ a → u.byte id a = s.byte id a)
    ∧ match u.findPeak.mp with
      | none => r = .noPeak dc
      | some mp =>
        if mp = s.size.l.toNat - 1 ∨ mp = len - 1 then r = .boundary dc mp
        else r = .ok dc mp (position mp) (fdiv u.findPeak.mx (fmul (fsqrt ((List.range s.size.l.toNat).foldl
          (fun acc i => fadd acc (fmul (u.readWord .xn (mp - i)) (u.readWord .xn (mp - i)))) fzero)) (i2f n)))

/-- The correlation pass itself (CorrelationPass); and the retry on DCBUF: only in DC-tracking IQ mode, only if the first
pass is not above the threshold, and adopted, moved by GDELAY, only if its own score is (rules R194 to R196). -/
def Obligations.RetryAdoption : Prop :=
  CorrelationPass
    ∧ (∀ (r : PassResult) (thres : Word), r.exceeds thres = true ↔
      ∃ dc mp mpos score, r = .ok dc mp mpos score ∧ fgt (fabs score) thres = true)
    ∧ (∀ (dc mpos score gdelay : Word) (mp : Nat),
      (PassResult.ok dc mp mpos score).shift gdelay = .ok dc mp (mpos + gdelay) score)
    ∧ (∀ c : Cfg, c.tracking = true ↔ c.iq = true ∧ c.dcMode = true)
    ∧ ∀ (s : State) (thres : Word),
      ((s.cfg.tracking = false ∨ (s.corrPass .bufs s.cfg.corrDcz).1.exceeds thres = true) →
        s.bestPass thres = ((s.corrPass .bufs s.cfg.corrDcz).1, false, (s.corrPass .bufs s.cfg.corrDcz).2))
      ∧ (s.cfg.tracking = true → (s.corrPass .bufs s.cfg.corrDcz).1.exceeds thres = false →
        ∀ r u, (s.corrPass .bufs s.cfg.corrDcz).2.corrPass .dcbuf true = (r, u) →
          (r.exceeds thres = false → s.bestPass thres = ((s.corrPass .bufs s.cfg.corrDcz).1, false, u))
          ∧ (r.exceeds thres = true → s.bestPass thres = (r.shift s.cfg.gdelay, true, u)))

/-- HEADCMP (rule R198): RES0 counts the header bits whose integral over BUFS (`headerSum`) does not match HDR after
inversion (`mismatchCount`), RES1 is the polarity; nothing else changes. -/
def Obligations.HeadcmpCompletes : Prop :=
  ∀ s : State, s.status.fault = false → s.status.session ≠ .uninit →
    ∃ t, exec .headcmp s = .next t ∧ Completed 0#32 s t
      ∧ t.res = { s.res with
          r0 := BitVec.ofNat 32 s.beginCommand.mismatchCount
          r1 := if flt s.run.mv fzero = true then 1#32 else 0#32 }
      ∧ t.res.r0.toNat ≤ s.cfg.hdrLen.toNat
      ∧ t.run = s.run ∧ t.srcPos = s.srcPos ∧ ∀ id a, t.byte id a = s.byte id a

/-- FIND_HDR always comes to an answer, whatever the HOST does while it runs (log entry 2), in a session whose no-signal
limit fits NOSIG, as INIT's first check makes it (rules R201, R202, R298). -/
def Obligations.FindHdrAlwaysAnswers : Prop :=
  ∀ s : State, s.status.fault = false → s.status.session = .ready → isNaN s.arg.r0 = false →
    flt s.arg.r0 fzero = false → s.inst.tNosig * s.cfg.sr.toNat < 2 ^ 32 → ∃ t, exec .findHdr s = .next t

/-- What FIND_HDR can come to and what each outcome leaves (rules R200 to R202), from `s` to `t`. -/
def SearchOutcome (s t : State) : Prop :=
  (t.result = 0#32 ∧ t.status.det = .headerVerified ∧ t.status.session = .ready ∧ t.status.eos = false
      ∧ t.status.lost = s.status.lost
      ∧ t.run.nosig = 0#32 ∧ t.run.kcnt = 0#32 ∧ t.res.r0 = t.run.mvPos ∧ t.res.r1 = t.run.mv
      ∧ fgt (fabs t.run.mv) s.arg.r0 = true ∧ t.res.r2 = BitVec.ofNat 32 t.mismatchCount
      ∧ t.mismatchCount ≤ s.arg.r1.toNat)
    ∨ (t.result = 0xFFFFFFFF#32 ∧ t.status.det = .searching ∧ t.status.session = .ended ∧ t.status.eos = true
      ∧ t.status.lost = s.status.lost ∧ t.res = s.res ∧ t.srcPos = s.source.frames.length)
    ∨ (t.result = 0xFFFFFFFB#32 ∧ t.status.det = .lost ∧ t.status.session = .ended ∧ t.status.lost = true
      ∧ t.status.eos = false ∧ t.res = s.res
      ∧ (t.active = false ∨ s.inst.tNosig * s.cfg.sr.toNat ≤ t.run.nosig.toNat))

/-- FIND_HDR ends in a verified header, the end of the stream, or signal loss, and what each of them leaves (rules R200
to R202): first with no HOST access while it runs; then with any accesses, forbidden ones included, which leave its
RESULT and RES as the rules give them (rules R74, R257); when they land is log entry 2. Only hardware reset is left out
(SignalLossAtOnce). -/
def Obligations.FindHdrOutcomes : Prop :=
  ∀ s : State, s.status.fault = false → s.status.session = .ready → s.status.eos = false → isNaN s.arg.r0 = false →
    flt s.arg.r0 fzero = false → s.inst.tNosig * s.cfg.sr.toNat < 2 ^ 32 →
    (∀ events ∈ s.during, HostEvent.hardReset ∉ events) →
    ∃ t, exec .findHdr s = .next t ∧ KeptWhileBusy s t
      ∧ (s.during = [] → Kept s t ∧ t.status.fault = false)
      ∧ t.run.sc = s.run.sc ∧ t.run.bg = s.run.bg ∧ t.res.r3 = s.res.r3
      ∧ (∀ id a, sampleMem id = false → corrMem id = false → t.byte id a = s.byte id a)
      ∧ SearchOutcome s t

/-- One correlation step of the search and what follows from it (rules R194, R198, R199, R202). KCNT is cleared; `r` is
the pass that stands (RetryAdoption) and `u` the block after the passes; `v` has the step's registers; a candidate is
taken up iff the step's code is 0 and |MV| exceeds the threshold, which needs a peak; `c` has PeakFound, and DF and
LOCKED after the carrier loop (CarrierLoop) in DC-tracking IQ mode; the mismatches counted on `c` decide. -/
def SearchCandidate : Prop :=
  ∀ (s u : State) (thres : Word) (maxerr : Nat) (r : PassResult) (path : Bool),
    { s with run := { s.run with kcnt := 0#32 } }.bestPass thres = (r, path, u) →
    ∃ (v c t : State) (found : Bool),
      v = { u with run := { u.run with
          dc := v.run.dc, ddf := fdiv (fmul (i2f s.cfg.sr.toNat) v.run.dc) (fmul ftwo s.inst.gain)
          mv := v.run.mv, mvPos := v.run.mvPos, buffered := v.run.buffered } }
      ∧ (match r with
        | .noPeak dc => v.run.dc = dc ∧ v.run.mv = fzero ∧ v.run.mvPos = s.run.mvPos ∧ v.run.buffered = s.run.buffered
        | .boundary dc _ =>
          v.run.dc = dc ∧ v.run.mv = fzero ∧ v.run.mvPos = s.run.mvPos ∧ v.run.buffered = s.run.buffered
        | .ok dc _ mpos score =>
          v.run.dc = dc ∧ v.run.mv = score ∧ v.run.mvPos = mpos ∧ v.run.buffered = s.run.sampleOut - mpos)
      ∧ (found = true ↔ (∀ dc mp, r ≠ .boundary dc mp) ∧ fgt (fabs v.run.mv) thres = true)
      ∧ (isNaN thres = false → flt thres fzero = false → found = true → ∃ dc mp mpos score, r = .ok dc mp mpos score)
      ∧ c = (if s.cfg.iq = true ∧ s.cfg.dcMode = true then
          { v with status := { v.status with det := .peakFound } }.carrierUpdate
        else { v with status := { v.status with det := .peakFound } })
      ∧ (found = false → s.searchStep thres maxerr = (false, v))
      ∧ (found = true → c.mismatchCount ≤ maxerr → s.searchStep thres maxerr = (true, { c with
          status := { c.status with det := .headerVerified }
          run := { c.run with nosig := 0#32 }
          res := { c.res with r0 := c.run.mvPos, r1 := c.run.mv, r2 := BitVec.ofNat 32 c.mismatchCount } }))
      ∧ (found = true → maxerr < c.mismatchCount → s.searchStep thres maxerr = (false, t)
        ∧ t = { c with status := { c.status with det := .searching }, free := t.free })

/-- FIND_HDR accepts the candidate of the correlation step that ends its stride `rounds`, counted from 0, the strides before
it having found none (rules R199, R202); and what one correlation step of the search does (SearchCandidate). -/
def Obligations.FindHdrReturnsHeader : Prop :=
  (∀ (s v u w : State) (rounds : Nat), s.status.fault = false → s.status.session = .ready → isNaN s.arg.r0 = false →
    flt s.arg.r0 fzero = false → s.inst.tNosig * s.cfg.sr.toNat < 2 ^ 32 → s.during = [] → 1 ≤ s.size.k.toNat →
    s.beginCommand.startSearch.searchStrides s.arg.r0 s.arg.r1.toNat rounds = some v →
    v.searchSteps s.size.k.toNat = some u →
    u.searchStep s.arg.r0 s.arg.r1.toNat = (true, w) →
    exec .findHdr s = .next (w.endCommand 0#32) ∧ Kept s (w.endCommand 0#32)
      ∧ w.status.det = .headerVerified ∧ w.status.session = .ready ∧ w.run.nosig = 0#32 ∧ w.run.kcnt = 0#32
      ∧ w.run.sampleIn = s.run.sampleIn + BitVec.ofNat 32 ((rounds + 1) * s.size.k.toNat)
      ∧ w.res = { s.res with r0 := w.run.mvPos, r1 := w.run.mv, r2 := BitVec.ofNat 32 w.mismatchCount }
      ∧ w.mismatchCount ≤ s.arg.r1.toNat)
    ∧ SearchCandidate

/-- Signal loss is declared before the first sample step if CTRL.ACTIVE = 0 or the no-signal window has run out. And what
the HOST does just before a later sample step of the first stride, `steps` sample steps from the start, the block being
`u` there (log entry 2): a write of ACTIVE = 0 is seen by the very next check (rules R74, R202), and a hardware reset
abandons the command, the frames taken being lost and no RESULT written by it (rule R281). The model's own in that
clause, not the rule's: that the rest of the moment's events move to the front of the idle queue and the later lists stay
(log entry 23), and that no memory holds a byte (`ReadsAsReset`, log entry 5). -/
def Obligations.SignalLossAtOnce : Prop :=
  (∀ s : State, s.status.fault = false → s.status.session = .ready → isNaN s.arg.r0 = false →
    flt s.arg.r0 fzero = false → s.during = [] →
    (s.active = false ∨ s.inst.tNosig * s.cfg.sr.toNat ≤ s.run.nosig.toNat) →
    ∃ t, exec .findHdr s = .next t ∧ Kept s t ∧ t.result = 0xFFFFFFFB#32
      ∧ t.status = { s.status with busy := false, det := .lost, lost := true, session := .ended }
      ∧ t.run = { s.run with kcnt := 0#32 } ∧ t.res = s.res ∧ t.srcPos = s.srcPos
      ∧ ∀ id a, t.byte id a = s.byte id a)
    ∧ ∀ (s u : State) (steps : Nat) (events : List HostEvent) (later : List (List HostEvent)),
      s.status.fault = false → s.status.session = .ready → isNaN s.arg.r0 = false → flt s.arg.r0 fzero = false →
      s.inst.tNosig * s.cfg.sr.toNat < 2 ^ 32 → steps < s.size.k.toNat →
      s.during = List.replicate steps [] ++ events :: later →
      s.beginCommand.startSearch.searchSteps steps = some u →
      (∀ (addr : Nat) (v : Word), events = [.write 4 addr v] → s.selected addr = true → offsetOf addr = 0x004 →
        v.getLsbD 0 = false →
        ∃ t, exec .findHdr s = .next t ∧ t.result = 0xFFFFFFFB#32 ∧ t.active = false
          ∧ t.status = { s.status with busy := false, det := .lost, lost := true, session := .ended }
          ∧ t.run = u.run ∧ t.res = s.res ∧ t.srcPos = u.srcPos ∧ t.during = later ∧ t.cfg = s.cfg ∧ t.size = s.size
          ∧ t.fcause = s.fcause ∧ t.finfo = s.finfo ∧ ∀ id a, t.byte id a = u.byte id a)
      ∧ ∀ before after : List HostEvent, events = before ++ .hardReset :: after → HostEvent.hardReset ∉ before →
        ∃ t, exec .findHdr s = .next t ∧ ReadsAsReset t ∧ t.status = Status.reset ∧ t.run = Run.reset
          ∧ t.srcPos = u.srcPos ∧ t.source = s.source ∧ t.inst = s.inst ∧ t.host = after ++ s.host ∧ t.during = later

/-! ### The slicer -/

/-- RD_SBIT and RD_HBIT with room on the symbol clock: a bit, or the end of the stream; what each leaves; and the hard bit
is the sign of the soft one (rules R213 to R217, R219). `bg` and `sc` are the clock's values after RST, `n` the symbols
read. The HOST may do anything meanwhile but reset the block: its accesses, forbidden ones included, leave RESULT and RES
as the rules give them (rules R74, R257). A hardware reset before the first sample step of a bit that needs one abandons
the command (rule R281). The model's own there, not the rules': when an access or a reset lands (log entry 2), that the
rest of the moment's events move to the front of the idle queue and the later lists stay (log entry 23), and that no
memory holds a byte (`ReadsAsReset`, log entry 5). -/
def Obligations.ReadBitCompletes : Prop :=
  ∀ (flags : Nibble) (s : State) (bg sc n : Nat), s.status.fault = false → s.status.session = .ready →
    s.status.eos = false →
    bg = (if flags.getLsbD 3 = true then 0 else s.run.bg.toNat) →
    sc = (if flags.getLsbD 3 = true then 0 else s.run.sc.toNat) →
    n = (if s.cfg.symLen.toNat % 4 = 2 then 2 else 1) →
    bg + n * s.cfg.sps.toNat ≤ (2 ^ 32 - 1) * 65536 →
    ((∀ events ∈ s.during, HostEvent.hardReset ∉ events) →
      ∃ t h, exec (.rdSbit flags) s = .next t ∧ exec (.rdHbit flags) s = .next h ∧ KeptWhileBusy s t
        ∧ (s.during = [] → Kept s t ∧ t.status.fault = false)
        ∧ h = { t with res := { s.res with r0 := t.res.r0 } }
        ∧ t.run.mv = s.run.mv ∧ t.run.mvPos = s.run.mvPos ∧ t.run.dc = s.run.dc ∧ t.run.df = s.run.df
        ∧ t.run.ddf = s.run.ddf ∧ t.run.nosig = s.run.nosig ∧ t.run.kcnt = s.run.kcnt
        ∧ (∀ id a, sampleMem id = false → t.byte id a = s.byte id a)
        ∧ ((t.result = 0#32 ∧ t.status = { s.status with busy := false, fault := t.status.fault }
              ∧ t.res = { s.res with r0 := if fge t.res.r1 fzero = true then 1#32 else 0#32, r1 := t.res.r1 }
              ∧ t.run.bg.toNat = bg + n * s.cfg.sps.toNat
              ∧ t.run.sc.toNat = max sc ((bg + n * s.cfg.sps.toNat + 65535) / 65536))
          ∨ (t.result = 0xFFFFFFFF#32 ∧ t.res = s.res
              ∧ t.status = { s.status with
                  busy := false, eos := true, session := .ended, fault := t.status.fault })))
    ∧ ∀ (before after : List HostEvent) (later : List (List HostEvent)),
      s.during = (before ++ .hardReset :: after) :: later → HostEvent.hardReset ∉ before →
      s.run.buffered.toInt ≤ 0 → 65536 * sc < bg + s.cfg.sps.toNat →
      ∃ t, exec (.rdSbit flags) s = .next t ∧ exec (.rdHbit flags) s = .next t ∧ ReadsAsReset t
        ∧ t.status = Status.reset ∧ t.run = Run.reset ∧ t.srcPos = s.srcPos ∧ t.source = s.source ∧ t.inst = s.inst
        ∧ t.host = after ++ s.host ∧ t.during = later

/-- `NextSample` (rule R212) with no HOST access before it: a buffered sample, or the newest after one sample step, where
BUFFERED keeps its value. -/
def NextSamplePosition : Prop :=
  ∀ (ofs : Word) (s : State), s.during = [] →
    (0 < s.run.buffered.toInt → nextSample ofs s = .done (s.run.sampleOut - (s.run.buffered - 1#32) + ofs)
      { s with run := { s.run with buffered := s.run.buffered - 1#32 } })
    ∧ (s.run.buffered.toInt ≤ 0 →
      (∀ v t, demodStep s = (some v, t) → t.run.buffered = s.run.buffered
        ∧ nextSample ofs s = .done (t.run.sampleOut - s.run.buffered + ofs) t)
      ∧ ∀ t, demodStep s = (none, t) → nextSample ofs s = .eos t)

/-- A bit whose samples are buffered, pulled, or both, with no HOST access meanwhile (rules R212 to R219). It takes `n`
samples for its first symbol and `n'` for a second; `b` of them can come from the buffer; `u j` is the block after `j`
sample steps and nothing else. Sample `j` is read, at the position that rule R212 gives, in the block as it then stands.
With all samples there, RES1 is their ordered sum, and the block is as the sample steps leave it, but for the clock and
BUFFERED. At the end of the stream the bit is lost: BG has moved by the symbols begun, SC by the samples consumed. -/
def PulledBit : Prop :=
  ∀ (flags : Nibble) (s : State) (u : Nat → State) (bg sc symbols n n' b steps : Nat), s.status.fault = false →
    s.status.session = .ready → s.status.eos = false → s.during = [] →
    bg = (if flags.getLsbD 3 = true then 0 else s.run.bg.toNat) →
    sc = (if flags.getLsbD 3 = true then 0 else s.run.sc.toNat) →
    symbols = (if s.cfg.symLen.toNat % 4 = 2 then 2 else 1) →
    bg + symbols * s.cfg.sps.toNat ≤ (2 ^ 32 - 1) * 65536 →
    n = (bg + s.cfg.sps.toNat + 65535) / 65536 - sc →
    n' = (bg + symbols * s.cfg.sps.toNat + 65535) / 65536 - (sc + n) →
    b = s.run.buffered.toInt.toNat → u 0 = s.beginCommand → steps ≤ n + n' - b →
    (∀ j, j < steps → ∃ v, demodStep (u j) = (some v, u (j + 1))) →
    let left (j : Nat) : Word := s.run.buffered - BitVec.ofNat 32 (min j b)
    let x (j : Nat) : Word := (u (j + 1 - b)).slicerSample (flagsOf flags)
      ((u (j + 1 - b)).run.sampleOut - left (j + 1) + s.arg.r0)
    let half (add : Bool) (start done samples : Nat) (acc : Word) : Word :=
      symbolFold s.arg.r1.toInt (2 * start + s.cfg.sps.toNat - 65536) (fun j => x (done + j)) add (sc + done) samples acc
    (steps = n + n' - b →
      ∃ t h, exec (.rdSbit flags) s = .next t ∧ Completed 0#32 s t
        ∧ exec (.rdHbit flags) s = .next h ∧ h = { t with res := { s.res with r0 := t.res.r0 } }
        ∧ t.res.r1 = (if symbols = 2 then half true (bg + s.cfg.sps.toNat) n n' (half false bg 0 n fzero)
            else half true bg 0 n fzero)
        ∧ t.res = { s.res with r0 := if fge t.res.r1 fzero = true then 1#32 else 0#32, r1 := t.res.r1 }
        ∧ t.run = { (u steps).run with
            buffered := left (n + n')
            sc := BitVec.ofNat 32 (sc + n + n')
            bg := BitVec.ofNat 48 (bg + symbols * s.cfg.sps.toNat) }
        ∧ t.run.sampleIn = s.run.sampleIn + BitVec.ofNat 32 steps
        ∧ t.srcPos = s.srcPos + steps * (if s.cfg.iq = true ∧ s.cfg.decim = true then s.size.decm.toNat else 1)
        ∧ ∀ id a, t.byte id a = (u steps).byte id a)
    ∧ ∀ w, steps < n + n' - b → demodStep (u steps) = (none, w) →
      ∃ t, exec (.rdSbit flags) s = .next t ∧ exec (.rdHbit flags) s = .next t ∧ Kept s t ∧ t.result = 0xFFFFFFFF#32
        ∧ t.status = { s.status with busy := false, eos := true, session := .ended } ∧ t.res = s.res
        ∧ t.run = { (u steps).run with
            buffered := left b
            sc := BitVec.ofNat 32 (sc + b + steps)
            bg := BitVec.ofNat 48 (bg + (if b + steps < n then 1 else 2) * s.cfg.sps.toNat) }
        ∧ t.srcPos = s.source.frames.length ∧ ∀ id a, t.byte id a = (u steps).byte id a

/-- A bit: first one read from buffered samples alone, where RD_SBIT's RES1 is the ordered sum (`symbolSum`) of the samples
that the sub-interval admits, each after the stages its flags ask for. With SYMLEN = 2 the samples of the first
half-symbol are subtracted and those of the second added (rule R215). BUFFERED goes down by the number consumed (rules
R212, R213). RD_HBIT does the same but for RES1. Then a bit whose samples are pulled, and the single sample. -/
def Obligations.BufferedSymbolSum : Prop :=
  (∀ (flags : Nibble) (s : State) (bg sc n : Nat), s.status.fault = false → s.status.session = .ready →
    bg = (if flags.getLsbD 3 = true then 0 else s.run.bg.toNat) →
    sc = (if flags.getLsbD 3 = true then 0 else s.run.sc.toNat) →
    n = (bg + s.cfg.sps.toNat + 65535) / 65536 - sc →
    (s.cfg.symLen.toNat % 4 ≠ 2 → (n : Int) ≤ s.run.buffered.toInt →
      bg + s.cfg.sps.toNat ≤ (2 ^ 32 - 1) * 65536 →
      ∃ t h, exec (.rdSbit flags) s = .next t ∧ Completed 0#32 s t
        ∧ exec (.rdHbit flags) s = .next h ∧ h = { t with res := { s.res with r0 := t.res.r0 } }
        ∧ t.res.r1 = s.beginCommand.symbolSum (flagsOf flags) true bg sc n 0 fzero
        ∧ t.res = { s.res with r0 := if fge t.res.r1 fzero = true then 1#32 else 0#32, r1 := t.res.r1 }
        ∧ t.run = { s.run with
            buffered := s.run.buffered - BitVec.ofNat 32 n
            sc := BitVec.ofNat 32 (sc + n)
            bg := BitVec.ofNat 48 (bg + s.cfg.sps.toNat) }
        ∧ t.srcPos = s.srcPos ∧ ∀ id a, t.byte id a = s.byte id a)
    ∧ ∀ n' : Nat, s.cfg.symLen.toNat % 4 = 2 → n' = (bg + 2 * s.cfg.sps.toNat + 65535) / 65536 - (sc + n) →
      ((n + n' : Nat) : Int) ≤ s.run.buffered.toInt → bg + 2 * s.cfg.sps.toNat ≤ (2 ^ 32 - 1) * 65536 →
      ∃ t h, exec (.rdSbit flags) s = .next t ∧ Completed 0#32 s t
        ∧ exec (.rdHbit flags) s = .next h ∧ h = { t with res := { s.res with r0 := t.res.r0 } }
        ∧ t.res.r1 = s.beginCommand.symbolSum (flagsOf flags) true (bg + s.cfg.sps.toNat) (sc + n) n' n
            (s.beginCommand.symbolSum (flagsOf flags) false bg sc n 0 fzero)
        ∧ t.res = { s.res with r0 := if fge t.res.r1 fzero = true then 1#32 else 0#32, r1 := t.res.r1 }
        ∧ t.run = { s.run with
            buffered := s.run.buffered - BitVec.ofNat 32 (n + n')
            sc := BitVec.ofNat 32 (sc + n + n')
            bg := BitVec.ofNat 48 (bg + 2 * s.cfg.sps.toNat) }
        ∧ t.srcPos = s.srcPos ∧ ∀ id a, t.byte id a = s.byte id a)
    ∧ PulledBit ∧ NextSamplePosition

/-- The spike suppressor (rule R214), the order of the three optional stages (rule R213) and the sub-interval (rule R218),
with `mid2` twice the symbol's centre and `l`, both in units of 2^-16. -/
def Obligations.SlicerStages : Prop :=
  (∀ (s : State) (x idx : Word), s.despike x idx =
    (let a := fmul 0x3F000000#32 (fadd (s.readWord .bufs ((idx - 1#32).toNat % s.size.m.toNat))
        (s.readWord .bufs ((idx + 1#32).toNat % s.size.m.toNat)))
      if fgt (fabs (fsub x a)) s.inst.spikeThs = true then fadd a (fmul s.inst.spikeScale (fsub x a)) else x))
  ∧ (∀ (s : State) (flags : Nibble) (idx : Word), ∃ x0 x1 x2 : Word,
      x0 = s.readWord .bufs (idx.toNat % s.size.m.toNat)
      ∧ x1 = (if flags.getLsbD 1 = true then s.despike x0 idx else x0)
      ∧ x2 = (if flags.getLsbD 2 = true then fsub x1 s.run.dc else x1)
      ∧ s.slicerSample (flagsOf flags) idx = if flags.getLsbD 0 = true then fneg x2 else x2)
  ∧ ∀ (l mid2 : Int) (sc : Nat), contributes l mid2 sc = true ↔
      l < 0 ∨ (mid2 - 2 * l < 2 * (65536 * sc) ∧ 2 * (65536 * (sc : Int)) < mid2 + 2 * l)

/-! ### INIT -/

/-- INIT with a valid configuration within the capacities: the session's registers (rule R234). IQDC_MAXCNT and the first
condition of ConfigLegal use the parameters IQDC_DIV and T_NOSIG where the rules print 32 and 10 (log entry 19). -/
def Obligations.InitCompletes : Prop :=
  ∀ s : State, s.status.fault = false → s.status.session = .uninit → s.ConfigLegal → s.CapacityLegal →
    ∃ t, exec .init s = .next t ∧ Base s t ∧ t.result = 0#32 ∧ t.fcause = s.fcause ∧ t.finfo = s.finfo
      ∧ t.res = s.res ∧ t.srcPos = s.srcPos
      ∧ t.status = { s.status with
          busy := false, session := .ready, locked := !s.cfg.dcMode, det := .searching }
      ∧ t.size = { s.size with
          n := BitVec.ofNat 32 s.cfg.transformLen
          log2n := BitVec.ofNat 32 s.cfg.transformLog
          m := BitVec.ofNat 32 s.cfg.bufferLen
          l := BitVec.ofNat 32 ((s.cfg.hdrLen.toNat * s.cfg.sps.toNat + 32768) / 65536)
          k := s.cfg.k
          rotLen := if s.cfg.decim = true then
              BitVec.ofNat 32 (s.cfg.sr.toNat * s.cfg.decm.toNat
                / Nat.gcd (s.cfg.sr.toNat * s.cfg.decm.toNat) s.cfg.rotw.toNat) else 0#32
          decm := if s.cfg.decim = true then s.cfg.decm else 1#32 }
      ∧ t.run = { Run.reset with
          sampleOut := 0xFFFFFFFF#32 - s.cfg.delay, iqdcMaxCnt := BitVec.ofNat 32 (s.cfg.sr.toNat / s.inst.iqdcDiv) }
      ∧ (∀ a, t.byte .hdr a = s.byte .hdr a) ∧ ∀ a, t.byte .coef a = s.byte .coef a

/-- MATCH follows the polarity of the header (rules R181, R182): inverting every header bit negates it. Left out are the
zeros, whose sign rule R12 fixes (+0) or leaves open (log entry 14), and an entry that the model leaves undecided (log
entry 15). -/
def TemplateFollowsPolarity : Prop :=
  ∀ s s' t t' : State, s.status.fault = false → s'.status.fault = false → s.status.session = .uninit →
    s'.status.session = .uninit → s.inst.legal = true → s.ConfigLegal → s.CapacityLegal → s'.cfg = s.cfg →
    s'.inst = s.inst → s'.size = s.size → exec .init s = .next t → exec .init s' = .next t' →
    (∀ j, j < s.cfg.hdrLen.toNat → (t'.readWord .hdr j).getLsbD 0 = !(t.readWord .hdr j).getLsbD 0) →
    ∀ k, k < t.size.l.toNat →
      t'.readWord .matchT k = fneg (t.readWord .matchT k)
        ∨ (isZero (t.readWord .matchT k) = true ∧ isZero (t'.readWord .matchT k) = true)
        ∨ ((∃ key, t.readWord .matchT k = Config.undecidedEntry key)
          ∧ ∃ key, t'.readWord .matchT k = Config.undecidedEntry key)

/-- What a successful INIT leaves in the memories (rule R234): TW and ROT hold correctly rounded cosines and sines
whatever NUM is (log entry 17, the model's reading of rules R101 and R150 by rule R12); WROM its windows, +0 from K+L
on, the boxcar's 1, the Hann window's zeros at both ends, the 1 in the middle of every window of odd length, and every
window symmetric; MATCH the template of HDR (rule R181), which follows the header's polarity; FM the transform of the
reversed template, computed with TW (rule R183); and zeros in the frames, the circular buffers and the delay lines. -/
def Obligations.InitTables : Prop :=
  (∀ s t : State, s.status.fault = false → s.status.session = .uninit → s.inst.legal = true → s.ConfigLegal →
    s.CapacityLegal → exec .init s = .next t →
    (∀ k, k < t.size.n.toNat / 2 → t.readCx .tw k = cis .reference (-(k : Int)) t.size.n.toNat)
    ∧ (∀ (w : Window) (k : Nat), k < t.size.n.toNat →
        t.readWord .wrom (w.id * s.inst.nMax + k)
          = (windowTable w (t.size.k.toNat + t.size.l.toNat) t.size.n.toNat).getD k fzero)
    ∧ (∀ (w : Window) (k : Nat), t.size.k.toNat + t.size.l.toNat ≤ k → k < t.size.n.toNat →
        t.readWord .wrom (w.id * s.inst.nMax + k) = fzero)
    ∧ (∀ k, k < t.size.k.toNat + t.size.l.toNat → t.readWord .wrom (0 * s.inst.nMax + k) = fone)
    ∧ t.readWord .wrom (1 * s.inst.nMax) = fzero
    ∧ t.readWord .wrom (1 * s.inst.nMax + (t.size.k.toNat + t.size.l.toNat - 1)) = fzero
    ∧ ((t.size.k.toNat + t.size.l.toNat) % 2 = 1 → ∀ w : Window,
        t.readWord .wrom (w.id * s.inst.nMax + (t.size.k.toNat + t.size.l.toNat) / 2) = fone)
    ∧ (∀ (w : Window) (k : Nat), k < t.size.k.toNat + t.size.l.toNat →
        t.readWord .wrom (w.id * s.inst.nMax + k)
          = t.readWord .wrom (w.id * s.inst.nMax + (t.size.k.toNat + t.size.l.toNat - 1 - k)))
    ∧ (s.cfg.decim = true → ∀ k, k < t.size.rotLen.toNat →
        t.readCx .rot k = cis .reference (-(s.cfg.rotf.toInt * k)) (s.cfg.sr.toNat * s.cfg.decm.toNat))
    ∧ (∀ k, k < t.size.l.toNat → t.readWord .matchT k = (matchTemplate s.cfg.bt s.cfg.sps.toNat
        ((List.range s.cfg.hdrLen.toNat).map (fun j => (t.readWord .hdr j).getLsbD 0)) t.size.l.toNat).getD k fzero)
    ∧ (∀ k, k < t.size.n.toNat → t.readCx .fm k
        = (fftCore ((List.range (t.size.n.toNat / 2)).map (t.readCx .tw)) t.size.log2n.toNat t.size.n.toNat
            ((List.range t.size.n.toNat).map (fun i =>
              if i < t.size.l.toNat then ⟨t.readWord .matchT (t.size.l.toNat - 1 - i), fzero⟩ else czero))).getD k czero)
    ∧ (∀ k, k < t.size.n.toNat →
        t.readWord .xn k = fzero ∧ t.readCx .x k = czero ∧ t.readCx .z k = czero ∧ t.readCx .cx k = czero)
    ∧ (∀ k, k < t.size.m.toNat →
        t.readWord .bufs k = fzero ∧ t.readWord .dcbuf k = fzero ∧ t.readCx .iqbuf k = czero)
    ∧ ∀ k, k < s.inst.tapsMax →
        t.readCx .lpiq k = czero ∧ t.readCx .decbuf k = czero ∧ t.readWord .lpfm k = fzero)
    ∧ TemplateFollowsPolarity

/-- INIT refuses a configuration that breaks one of the fifteen conditions of rule R232 (`ConfigLegal`, which spells them
out; its first uses parameters where the rule prints 10 and 32, log entry 19) with -6, and one beyond the capacities of
rule R233 with -3, in this order, and changes nothing else. -/
def Obligations.InitRefuses : Prop :=
  ∀ s : State, s.status.fault = false → s.status.session = .uninit →
    (¬ s.ConfigLegal → ∃ t, exec .init s = .next t ∧ Completed 0xFFFFFFFA#32 s t ∧ DataKept s t)
    ∧ (s.ConfigLegal → ¬ s.CapacityLegal →
      ∃ t, exec .init s = .next t ∧ Completed 0xFFFFFFFD#32 s t ∧ DataKept s t)

/-- S_M and S_N are the smallest powers of two that rule R41 asks for. -/
def Obligations.SizesAreSmallestPowers : Prop :=
  ∀ c : Cfg,
    (∃ k, c.bufferLen = 2 ^ k) ∧ 2 ≤ c.bufferLen ∧ 3 * c.hdrLen.toNat * c.sps.toNat ≤ 65536 * c.bufferLen
      ∧ (∀ k, 2 ≤ 2 ^ k → 3 * c.hdrLen.toNat * c.sps.toNat ≤ 65536 * 2 ^ k → c.bufferLen ≤ 2 ^ k)
      ∧ c.transformLen = 2 ^ c.transformLog ∧ 2 ≤ c.transformLen ∧ c.k.toNat + c.templateLen ≤ c.transformLen
      ∧ ∀ k, 2 ≤ 2 ^ k → c.k.toNat + c.templateLen ≤ 2 ^ k → c.transformLen ≤ 2 ^ k

/-! ### The number format -/

/-- The four operations and `i2f` on finite operands are the exact result rounded (rule R10). A finite value `v` is
`units v` times 2^-149. -/
def FiniteArithmetic : Prop :=
  (∀ a b : Word, isFinite a = true → isFinite b = true →
    RoundedTo (fadd a b) (units a + units b) 1 ∧ RoundedTo (fsub a b) (units a - units b) 1
      ∧ RoundedTo (fmul a b) (units a * units b) (2 ^ 149)
      ∧ (isZero b = false →
        RoundedTo (fdiv a b) (units a * 2 ^ 149 * (if fsign b = true then -1 else 1)) (units b).natAbs))
    ∧ ∀ n : Int, RoundedTo (i2f n) (n * 2 ^ 149) 1

/-- `fsqrt` (rule R10): of a finite value that is not negative, the nearest finite value, a value on either side of it
being at least as far from the exact root; of a negative one, a NaN; of a zero or +infinity, that itself. -/
def SquareRoot : Prop :=
  (∀ a : Word, isFinite a = true → fsign a = false → isFinite (fsqrt a) = true ∧ fsign (fsqrt a) = false
    ∧ ∀ c : Word, isFinite c = true → fsign c = false →
      (units c < units (fsqrt a) → (units c + units (fsqrt a)) ^ 2 ≤ 4 * units a * 2 ^ 149)
        ∧ (units (fsqrt a) < units c → 4 * units a * 2 ^ 149 ≤ (units c + units (fsqrt a)) ^ 2))
    ∧ ∀ a : Word, (isZero a = true → fsqrt a = a) ∧ (fsign a = true → isZero a = false → isNaN (fsqrt a) = true)
      ∧ (isNaN a = true → isNaN (fsqrt a) = true) ∧ (isInf a = true → fsign a = false → fsqrt a = a)

/-- Infinities, NaNs and the signs of zeros (rules R10, R268). -/
def SpecialOperands : Prop :=
  ∀ a b : Word,
    ((isNaN a = true ∨ isNaN b = true) →
      isNaN (fadd a b) = true ∧ isNaN (fsub a b) = true ∧ isNaN (fmul a b) = true ∧ isNaN (fdiv a b) = true)
    ∧ (isInf a = true → isFinite b = true → fadd a b = a ∧ fsub a b = a
      ∧ (isZero b = true → isNaN (fmul a b) = true)
      ∧ (isZero b = false → isInf (fmul a b) = true) ∧ isInf (fdiv a b) = true)
    ∧ (isFinite a = true → isInf b = true → fadd a b = b ∧ fsub a b = fneg b
      ∧ (isZero a = true → isNaN (fmul a b) = true)
      ∧ (isZero a = false → isInf (fmul a b) = true) ∧ isZero (fdiv a b) = true)
    ∧ (isInf a = true → isInf b = true → isInf (fmul a b) = true ∧ isNaN (fdiv a b) = true
      ∧ (fsign a = fsign b → fadd a b = a ∧ isNaN (fsub a b) = true)
      ∧ (fsign a ≠ fsign b → isNaN (fadd a b) = true ∧ fsub a b = a))
    ∧ (isFinite a = true → isZero b = true → (isZero a = true → isNaN (fdiv a b) = true)
      ∧ (isZero a = false → isInf (fdiv a b) = true))
    ∧ (isNaN (fmul a b) = false → fsign (fmul a b) = (fsign a ^^ fsign b))
    ∧ (isNaN (fdiv a b) = false → fsign (fdiv a b) = (fsign a ^^ fsign b))
    ∧ (isFinite a = true → isFinite b = true →
      (units a + units b = 0 → fadd a b = if fsign a = true ∧ fsign b = true then fnegZero else fzero)
        ∧ (units a = units b → fsub a b = if fsign a = true ∧ fsign b = false then fnegZero else fzero))

/-- The comparisons, false on a NaN, with the two zeros equal; and `fneg` and `fabs` (rule R10). -/
def Comparisons : Prop :=
  (∀ a b : Word,
    ((isNaN a = true ∨ isNaN b = true) →
      flt a b = false ∧ fle a b = false ∧ fgt a b = false ∧ fge a b = false)
    ∧ (isNaN a = false → isNaN b = false →
      (flt a b = true ↔ valueOrder a < valueOrder b) ∧ (fle a b = true ↔ valueOrder a ≤ valueOrder b)
        ∧ (fgt a b = true ↔ valueOrder b < valueOrder a) ∧ (fge a b = true ↔ valueOrder b ≤ valueOrder a)))
    ∧ ∀ a : Word, fmag (fneg a) = fmag a ∧ fsign (fneg a) = !fsign a ∧ fmag (fabs a) = fmag a ∧ fsign (fabs a) = false

/-- The number format (rule R10): every operation rounds the exact result to nearest, ties to even, to infinity on
overflow; the special operands; the comparisons. Which NaN an operation returns is open (log entry 8). -/
def Obligations.ArithmeticRoundsToNearest : Prop :=
  FiniteArithmetic ∧ SquareRoot ∧ SpecialOperands ∧ Comparisons

/-! ### Invariants of every step -/

/-- Every step keeps every memory in canonical form, the model's own representation (log entry 5). -/
def Obligations.StepKeepsCanonicalMemories : Prop :=
  ∀ s t : State, s.mem.wf → step s = .next t → t.mem.wf

/-- Every step keeps rule R57: the read position, the sizes, the estimator's bound, the write pointers, the clock; and
IQDC_MAXCNT never decreases within a session (rule R57 d). -/
def Obligations.StepKeepsSessionInvariants : Prop :=
  ∀ s t : State, s.Inv → step s = .next t →
    t.Inv ∧ (s.status.session ≠ .uninit → t.status.session ≠ .uninit →
      s.run.iqdcMaxCnt.toNat ≤ t.run.iqdcMaxCnt.toNat)

/-- No command changes HDR: it holds what it held, or, after SRESET or a hardware reset while the command runs, nothing,
which is how the model says that it is unspecified (log entry 5); when such a reset lands is log entry 2. -/
def Obligations.CommandsKeepHeader : Prop :=
  ∀ (i : Instr) (s t : State), exec i s = .next t →
    (∀ a, t.byte .hdr a = s.byte .hdr a)
      ∨ ((∀ a, t.byte .hdr a = none) ∧ t.status.session = .uninit
        ∧ (i = .sreset ∨ ∃ events ∈ s.during, HostEvent.hardReset ∈ events))
end

