-- ==== Sys2Proof/Laws/State.lean ====
section
/-! SUPPORT. One lemma per field of State for every update of it, each true by computation. -/

namespace Sys2Proof.Machine


/-! ### beginCommand -/

@[simp] theorem beginCommand_inst (s : State) : s.beginCommand.inst = s.inst := rfl
@[simp] theorem beginCommand_active (s : State) : s.beginCommand.active = s.active := rfl
@[simp] theorem beginCommand_status (s : State) : s.beginCommand.status = { s.status with busy := true } := rfl
@[simp] theorem beginCommand_result (s : State) : s.beginCommand.result = s.result := rfl
@[simp] theorem beginCommand_fcause (s : State) : s.beginCommand.fcause = s.fcause := rfl
@[simp] theorem beginCommand_finfo (s : State) : s.beginCommand.finfo = s.finfo := rfl
@[simp] theorem beginCommand_arg (s : State) : s.beginCommand.arg = s.arg := rfl
@[simp] theorem beginCommand_latch (s : State) : s.beginCommand.latch = s.arg := rfl
@[simp] theorem beginCommand_res (s : State) : s.beginCommand.res = s.res := rfl
@[simp] theorem beginCommand_cfg (s : State) : s.beginCommand.cfg = s.cfg := rfl
@[simp] theorem beginCommand_size (s : State) : s.beginCommand.size = s.size := rfl
@[simp] theorem beginCommand_run (s : State) : s.beginCommand.run = s.run := rfl
@[simp] theorem beginCommand_mem (s : State) : s.beginCommand.mem = s.mem := rfl
@[simp] theorem beginCommand_source (s : State) : s.beginCommand.source = s.source := rfl
@[simp] theorem beginCommand_srcPos (s : State) : s.beginCommand.srcPos = s.srcPos := rfl
@[simp] theorem beginCommand_host (s : State) : s.beginCommand.host = s.host := rfl
@[simp] theorem beginCommand_during (s : State) : s.beginCommand.during = s.during := rfl
@[simp] theorem beginCommand_hostReads (s : State) : s.beginCommand.hostReads = s.hostReads := rfl
@[simp] theorem beginCommand_free (s : State) : s.beginCommand.free = s.free + 1 := rfl

/-! ### endCommand -/

@[simp] theorem endCommand_inst (s : State) (code : Word) : (s.endCommand code).inst = s.inst := rfl
@[simp] theorem endCommand_active (s : State) (code : Word) : (s.endCommand code).active = s.active := rfl
@[simp] theorem endCommand_status (s : State) (code : Word) : (s.endCommand code).status = { s.status with busy := false } := rfl
@[simp] theorem endCommand_result (s : State) (code : Word) : (s.endCommand code).result = code := rfl
@[simp] theorem endCommand_fcause (s : State) (code : Word) : (s.endCommand code).fcause = s.fcause := rfl
@[simp] theorem endCommand_finfo (s : State) (code : Word) : (s.endCommand code).finfo = s.finfo := rfl
@[simp] theorem endCommand_arg (s : State) (code : Word) : (s.endCommand code).arg = s.arg := rfl
@[simp] theorem endCommand_latch (s : State) (code : Word) : (s.endCommand code).latch = s.latch := rfl
@[simp] theorem endCommand_res (s : State) (code : Word) : (s.endCommand code).res = s.res := rfl
@[simp] theorem endCommand_cfg (s : State) (code : Word) : (s.endCommand code).cfg = s.cfg := rfl
@[simp] theorem endCommand_size (s : State) (code : Word) : (s.endCommand code).size = s.size := rfl
@[simp] theorem endCommand_run (s : State) (code : Word) : (s.endCommand code).run = s.run := rfl
@[simp] theorem endCommand_mem (s : State) (code : Word) : (s.endCommand code).mem = s.mem := rfl
@[simp] theorem endCommand_source (s : State) (code : Word) : (s.endCommand code).source = s.source := rfl
@[simp] theorem endCommand_srcPos (s : State) (code : Word) : (s.endCommand code).srcPos = s.srcPos := rfl
@[simp] theorem endCommand_host (s : State) (code : Word) : (s.endCommand code).host = s.host := rfl
@[simp] theorem endCommand_during (s : State) (code : Word) : (s.endCommand code).during = s.during := rfl
@[simp] theorem endCommand_hostReads (s : State) (code : Word) : (s.endCommand code).hostReads = s.hostReads := rfl
@[simp] theorem endCommand_free (s : State) (code : Word) : (s.endCommand code).free = s.free := rfl

/-! ### raiseFault -/

@[simp] theorem raiseFault_inst (s : State) (c : Cause) (info : Word) : (s.raiseFault c info).inst = s.inst := rfl
@[simp] theorem raiseFault_active (s : State) (c : Cause) (info : Word) : (s.raiseFault c info).active = s.active := rfl
@[simp] theorem raiseFault_status (s : State) (c : Cause) (info : Word) : (s.raiseFault c info).status = { s.status with fault := true } := rfl
@[simp] theorem raiseFault_result (s : State) (c : Cause) (info : Word) : (s.raiseFault c info).result = s.result := rfl
@[simp] theorem raiseFault_fcause (s : State) (c : Cause) (info : Word) : (s.raiseFault c info).fcause = if s.status.fault then s.fcause else c.code := rfl
@[simp] theorem raiseFault_finfo (s : State) (c : Cause) (info : Word) : (s.raiseFault c info).finfo = if s.status.fault then s.finfo else info := rfl
@[simp] theorem raiseFault_arg (s : State) (c : Cause) (info : Word) : (s.raiseFault c info).arg = s.arg := rfl
@[simp] theorem raiseFault_latch (s : State) (c : Cause) (info : Word) : (s.raiseFault c info).latch = s.latch := rfl
@[simp] theorem raiseFault_res (s : State) (c : Cause) (info : Word) : (s.raiseFault c info).res = s.res := rfl
@[simp] theorem raiseFault_cfg (s : State) (c : Cause) (info : Word) : (s.raiseFault c info).cfg = s.cfg := rfl
@[simp] theorem raiseFault_size (s : State) (c : Cause) (info : Word) : (s.raiseFault c info).size = s.size := rfl
@[simp] theorem raiseFault_run (s : State) (c : Cause) (info : Word) : (s.raiseFault c info).run = s.run := rfl
@[simp] theorem raiseFault_mem (s : State) (c : Cause) (info : Word) : (s.raiseFault c info).mem = s.mem := rfl
@[simp] theorem raiseFault_source (s : State) (c : Cause) (info : Word) : (s.raiseFault c info).source = s.source := rfl
@[simp] theorem raiseFault_srcPos (s : State) (c : Cause) (info : Word) : (s.raiseFault c info).srcPos = s.srcPos := rfl
@[simp] theorem raiseFault_host (s : State) (c : Cause) (info : Word) : (s.raiseFault c info).host = s.host := rfl
@[simp] theorem raiseFault_during (s : State) (c : Cause) (info : Word) : (s.raiseFault c info).during = s.during := rfl
@[simp] theorem raiseFault_hostReads (s : State) (c : Cause) (info : Word) : (s.raiseFault c info).hostReads = s.hostReads := rfl
@[simp] theorem raiseFault_free (s : State) (c : Cause) (info : Word) : (s.raiseFault c info).free = s.free := rfl

/-! ### commandFault -/

@[simp] theorem commandFault_inst (s : State) (c : Cause) (w : Word) : (s.commandFault c w).inst = s.inst := rfl
@[simp] theorem commandFault_active (s : State) (c : Cause) (w : Word) : (s.commandFault c w).active = s.active := rfl
@[simp] theorem commandFault_status (s : State) (c : Cause) (w : Word) : (s.commandFault c w).status = { s.status with fault := true, busy := false } := rfl
@[simp] theorem commandFault_result (s : State) (c : Cause) (w : Word) : (s.commandFault c w).result = rcFaulted := rfl
@[simp] theorem commandFault_fcause (s : State) (c : Cause) (w : Word) : (s.commandFault c w).fcause = if s.status.fault then s.fcause else c.code := rfl
@[simp] theorem commandFault_finfo (s : State) (c : Cause) (w : Word) : (s.commandFault c w).finfo = if s.status.fault then s.finfo else w := rfl
@[simp] theorem commandFault_arg (s : State) (c : Cause) (w : Word) : (s.commandFault c w).arg = s.arg := rfl
@[simp] theorem commandFault_latch (s : State) (c : Cause) (w : Word) : (s.commandFault c w).latch = s.latch := rfl
@[simp] theorem commandFault_res (s : State) (c : Cause) (w : Word) : (s.commandFault c w).res = s.res := rfl
@[simp] theorem commandFault_cfg (s : State) (c : Cause) (w : Word) : (s.commandFault c w).cfg = s.cfg := rfl
@[simp] theorem commandFault_size (s : State) (c : Cause) (w : Word) : (s.commandFault c w).size = s.size := rfl
@[simp] theorem commandFault_run (s : State) (c : Cause) (w : Word) : (s.commandFault c w).run = s.run := rfl
@[simp] theorem commandFault_mem (s : State) (c : Cause) (w : Word) : (s.commandFault c w).mem = s.mem := rfl
@[simp] theorem commandFault_source (s : State) (c : Cause) (w : Word) : (s.commandFault c w).source = s.source := rfl
@[simp] theorem commandFault_srcPos (s : State) (c : Cause) (w : Word) : (s.commandFault c w).srcPos = s.srcPos := rfl
@[simp] theorem commandFault_host (s : State) (c : Cause) (w : Word) : (s.commandFault c w).host = s.host := rfl
@[simp] theorem commandFault_during (s : State) (c : Cause) (w : Word) : (s.commandFault c w).during = s.during := rfl
@[simp] theorem commandFault_hostReads (s : State) (c : Cause) (w : Word) : (s.commandFault c w).hostReads = s.hostReads := rfl
@[simp] theorem commandFault_free (s : State) (c : Cause) (w : Word) : (s.commandFault c w).free = s.free := rfl

/-! ### hardwareReset -/

@[simp] theorem hardwareReset_inst (s : State) : s.hardwareReset.inst = s.inst := rfl
@[simp] theorem hardwareReset_active (s : State) : s.hardwareReset.active = true := rfl
@[simp] theorem hardwareReset_status (s : State) : s.hardwareReset.status = Status.reset := rfl
@[simp] theorem hardwareReset_result (s : State) : s.hardwareReset.result = 0#32 := rfl
@[simp] theorem hardwareReset_fcause (s : State) : s.hardwareReset.fcause = 0#32 := rfl
@[simp] theorem hardwareReset_finfo (s : State) : s.hardwareReset.finfo = 0#32 := rfl
@[simp] theorem hardwareReset_arg (s : State) : s.hardwareReset.arg = Quad.zero := rfl
@[simp] theorem hardwareReset_latch (s : State) : s.hardwareReset.latch = Quad.zero := rfl
@[simp] theorem hardwareReset_res (s : State) : s.hardwareReset.res = Quad.zero := rfl
@[simp] theorem hardwareReset_cfg (s : State) : s.hardwareReset.cfg = Cfg.reset := rfl
@[simp] theorem hardwareReset_size (s : State) : s.hardwareReset.size = Sizes.reset := rfl
@[simp] theorem hardwareReset_run (s : State) : s.hardwareReset.run = Run.reset := rfl
@[simp] theorem hardwareReset_mem (s : State) : s.hardwareReset.mem = Mems.reset := rfl
@[simp] theorem hardwareReset_source (s : State) : s.hardwareReset.source = s.source := rfl
@[simp] theorem hardwareReset_srcPos (s : State) : s.hardwareReset.srcPos = s.srcPos := rfl
@[simp] theorem hardwareReset_host (s : State) : s.hardwareReset.host = s.host := rfl
@[simp] theorem hardwareReset_during (s : State) : s.hardwareReset.during = s.during := rfl
@[simp] theorem hardwareReset_hostReads (s : State) : s.hardwareReset.hostReads = s.hostReads := rfl
@[simp] theorem hardwareReset_free (s : State) : s.hardwareReset.free = s.free + 1 := rfl

/-! ### setRes0 -/

@[simp] theorem setRes0_inst (s : State) (v : Word) : (s.setRes0 v).inst = s.inst := rfl
@[simp] theorem setRes0_active (s : State) (v : Word) : (s.setRes0 v).active = s.active := rfl
@[simp] theorem setRes0_status (s : State) (v : Word) : (s.setRes0 v).status = s.status := rfl
@[simp] theorem setRes0_result (s : State) (v : Word) : (s.setRes0 v).result = s.result := rfl
@[simp] theorem setRes0_fcause (s : State) (v : Word) : (s.setRes0 v).fcause = s.fcause := rfl
@[simp] theorem setRes0_finfo (s : State) (v : Word) : (s.setRes0 v).finfo = s.finfo := rfl
@[simp] theorem setRes0_arg (s : State) (v : Word) : (s.setRes0 v).arg = s.arg := rfl
@[simp] theorem setRes0_latch (s : State) (v : Word) : (s.setRes0 v).latch = s.latch := rfl
@[simp] theorem setRes0_res (s : State) (v : Word) : (s.setRes0 v).res = { s.res with r0 := v } := rfl
@[simp] theorem setRes0_cfg (s : State) (v : Word) : (s.setRes0 v).cfg = s.cfg := rfl
@[simp] theorem setRes0_size (s : State) (v : Word) : (s.setRes0 v).size = s.size := rfl
@[simp] theorem setRes0_run (s : State) (v : Word) : (s.setRes0 v).run = s.run := rfl
@[simp] theorem setRes0_mem (s : State) (v : Word) : (s.setRes0 v).mem = s.mem := rfl
@[simp] theorem setRes0_source (s : State) (v : Word) : (s.setRes0 v).source = s.source := rfl
@[simp] theorem setRes0_srcPos (s : State) (v : Word) : (s.setRes0 v).srcPos = s.srcPos := rfl
@[simp] theorem setRes0_host (s : State) (v : Word) : (s.setRes0 v).host = s.host := rfl
@[simp] theorem setRes0_during (s : State) (v : Word) : (s.setRes0 v).during = s.during := rfl
@[simp] theorem setRes0_hostReads (s : State) (v : Word) : (s.setRes0 v).hostReads = s.hostReads := rfl
@[simp] theorem setRes0_free (s : State) (v : Word) : (s.setRes0 v).free = s.free := rfl

/-! ### setRes01 -/

@[simp] theorem setRes01_inst (s : State) (v0 v1 : Word) : (s.setRes01 v0 v1).inst = s.inst := rfl
@[simp] theorem setRes01_active (s : State) (v0 v1 : Word) : (s.setRes01 v0 v1).active = s.active := rfl
@[simp] theorem setRes01_status (s : State) (v0 v1 : Word) : (s.setRes01 v0 v1).status = s.status := rfl
@[simp] theorem setRes01_result (s : State) (v0 v1 : Word) : (s.setRes01 v0 v1).result = s.result := rfl
@[simp] theorem setRes01_fcause (s : State) (v0 v1 : Word) : (s.setRes01 v0 v1).fcause = s.fcause := rfl
@[simp] theorem setRes01_finfo (s : State) (v0 v1 : Word) : (s.setRes01 v0 v1).finfo = s.finfo := rfl
@[simp] theorem setRes01_arg (s : State) (v0 v1 : Word) : (s.setRes01 v0 v1).arg = s.arg := rfl
@[simp] theorem setRes01_latch (s : State) (v0 v1 : Word) : (s.setRes01 v0 v1).latch = s.latch := rfl
@[simp] theorem setRes01_res (s : State) (v0 v1 : Word) : (s.setRes01 v0 v1).res = { s.res with r0 := v0, r1 := v1 } := rfl
@[simp] theorem setRes01_cfg (s : State) (v0 v1 : Word) : (s.setRes01 v0 v1).cfg = s.cfg := rfl
@[simp] theorem setRes01_size (s : State) (v0 v1 : Word) : (s.setRes01 v0 v1).size = s.size := rfl
@[simp] theorem setRes01_run (s : State) (v0 v1 : Word) : (s.setRes01 v0 v1).run = s.run := rfl
@[simp] theorem setRes01_mem (s : State) (v0 v1 : Word) : (s.setRes01 v0 v1).mem = s.mem := rfl
@[simp] theorem setRes01_source (s : State) (v0 v1 : Word) : (s.setRes01 v0 v1).source = s.source := rfl
@[simp] theorem setRes01_srcPos (s : State) (v0 v1 : Word) : (s.setRes01 v0 v1).srcPos = s.srcPos := rfl
@[simp] theorem setRes01_host (s : State) (v0 v1 : Word) : (s.setRes01 v0 v1).host = s.host := rfl
@[simp] theorem setRes01_during (s : State) (v0 v1 : Word) : (s.setRes01 v0 v1).during = s.during := rfl
@[simp] theorem setRes01_hostReads (s : State) (v0 v1 : Word) : (s.setRes01 v0 v1).hostReads = s.hostReads := rfl
@[simp] theorem setRes01_free (s : State) (v0 v1 : Word) : (s.setRes01 v0 v1).free = s.free := rfl

/-! ### setRes012 -/

@[simp] theorem setRes012_inst (s : State) (v0 v1 v2 : Word) : (s.setRes012 v0 v1 v2).inst = s.inst := rfl
@[simp] theorem setRes012_active (s : State) (v0 v1 v2 : Word) : (s.setRes012 v0 v1 v2).active = s.active := rfl
@[simp] theorem setRes012_status (s : State) (v0 v1 v2 : Word) : (s.setRes012 v0 v1 v2).status = s.status := rfl
@[simp] theorem setRes012_result (s : State) (v0 v1 v2 : Word) : (s.setRes012 v0 v1 v2).result = s.result := rfl
@[simp] theorem setRes012_fcause (s : State) (v0 v1 v2 : Word) : (s.setRes012 v0 v1 v2).fcause = s.fcause := rfl
@[simp] theorem setRes012_finfo (s : State) (v0 v1 v2 : Word) : (s.setRes012 v0 v1 v2).finfo = s.finfo := rfl
@[simp] theorem setRes012_arg (s : State) (v0 v1 v2 : Word) : (s.setRes012 v0 v1 v2).arg = s.arg := rfl
@[simp] theorem setRes012_latch (s : State) (v0 v1 v2 : Word) : (s.setRes012 v0 v1 v2).latch = s.latch := rfl
@[simp] theorem setRes012_res (s : State) (v0 v1 v2 : Word) : (s.setRes012 v0 v1 v2).res = { s.res with r0 := v0, r1 := v1, r2 := v2 } := rfl
@[simp] theorem setRes012_cfg (s : State) (v0 v1 v2 : Word) : (s.setRes012 v0 v1 v2).cfg = s.cfg := rfl
@[simp] theorem setRes012_size (s : State) (v0 v1 v2 : Word) : (s.setRes012 v0 v1 v2).size = s.size := rfl
@[simp] theorem setRes012_run (s : State) (v0 v1 v2 : Word) : (s.setRes012 v0 v1 v2).run = s.run := rfl
@[simp] theorem setRes012_mem (s : State) (v0 v1 v2 : Word) : (s.setRes012 v0 v1 v2).mem = s.mem := rfl
@[simp] theorem setRes012_source (s : State) (v0 v1 v2 : Word) : (s.setRes012 v0 v1 v2).source = s.source := rfl
@[simp] theorem setRes012_srcPos (s : State) (v0 v1 v2 : Word) : (s.setRes012 v0 v1 v2).srcPos = s.srcPos := rfl
@[simp] theorem setRes012_host (s : State) (v0 v1 v2 : Word) : (s.setRes012 v0 v1 v2).host = s.host := rfl
@[simp] theorem setRes012_during (s : State) (v0 v1 v2 : Word) : (s.setRes012 v0 v1 v2).during = s.during := rfl
@[simp] theorem setRes012_hostReads (s : State) (v0 v1 v2 : Word) : (s.setRes012 v0 v1 v2).hostReads = s.hostReads := rfl
@[simp] theorem setRes012_free (s : State) (v0 v1 v2 : Word) : (s.setRes012 v0 v1 v2).free = s.free := rfl

/-! ### setRes -/

@[simp] theorem setRes_inst (s : State) (v0 v1 v2 v3 : Word) : (s.setRes v0 v1 v2 v3).inst = s.inst := rfl
@[simp] theorem setRes_active (s : State) (v0 v1 v2 v3 : Word) : (s.setRes v0 v1 v2 v3).active = s.active := rfl
@[simp] theorem setRes_status (s : State) (v0 v1 v2 v3 : Word) : (s.setRes v0 v1 v2 v3).status = s.status := rfl
@[simp] theorem setRes_result (s : State) (v0 v1 v2 v3 : Word) : (s.setRes v0 v1 v2 v3).result = s.result := rfl
@[simp] theorem setRes_fcause (s : State) (v0 v1 v2 v3 : Word) : (s.setRes v0 v1 v2 v3).fcause = s.fcause := rfl
@[simp] theorem setRes_finfo (s : State) (v0 v1 v2 v3 : Word) : (s.setRes v0 v1 v2 v3).finfo = s.finfo := rfl
@[simp] theorem setRes_arg (s : State) (v0 v1 v2 v3 : Word) : (s.setRes v0 v1 v2 v3).arg = s.arg := rfl
@[simp] theorem setRes_latch (s : State) (v0 v1 v2 v3 : Word) : (s.setRes v0 v1 v2 v3).latch = s.latch := rfl
@[simp] theorem setRes_res (s : State) (v0 v1 v2 v3 : Word) : (s.setRes v0 v1 v2 v3).res = ⟨v0, v1, v2, v3⟩ := rfl
@[simp] theorem setRes_cfg (s : State) (v0 v1 v2 v3 : Word) : (s.setRes v0 v1 v2 v3).cfg = s.cfg := rfl
@[simp] theorem setRes_size (s : State) (v0 v1 v2 v3 : Word) : (s.setRes v0 v1 v2 v3).size = s.size := rfl
@[simp] theorem setRes_run (s : State) (v0 v1 v2 v3 : Word) : (s.setRes v0 v1 v2 v3).run = s.run := rfl
@[simp] theorem setRes_mem (s : State) (v0 v1 v2 v3 : Word) : (s.setRes v0 v1 v2 v3).mem = s.mem := rfl
@[simp] theorem setRes_source (s : State) (v0 v1 v2 v3 : Word) : (s.setRes v0 v1 v2 v3).source = s.source := rfl
@[simp] theorem setRes_srcPos (s : State) (v0 v1 v2 v3 : Word) : (s.setRes v0 v1 v2 v3).srcPos = s.srcPos := rfl
@[simp] theorem setRes_host (s : State) (v0 v1 v2 v3 : Word) : (s.setRes v0 v1 v2 v3).host = s.host := rfl
@[simp] theorem setRes_during (s : State) (v0 v1 v2 v3 : Word) : (s.setRes v0 v1 v2 v3).during = s.during := rfl
@[simp] theorem setRes_hostReads (s : State) (v0 v1 v2 v3 : Word) : (s.setRes v0 v1 v2 v3).hostReads = s.hostReads := rfl
@[simp] theorem setRes_free (s : State) (v0 v1 v2 v3 : Word) : (s.setRes v0 v1 v2 v3).free = s.free := rfl

/-! ### fresh -/

@[simp] theorem fresh_inst (s : State) : s.fresh.inst = s.inst := rfl
@[simp] theorem fresh_active (s : State) : s.fresh.active = s.active := rfl
@[simp] theorem fresh_status (s : State) : s.fresh.status = s.status := rfl
@[simp] theorem fresh_result (s : State) : s.fresh.result = s.result := rfl
@[simp] theorem fresh_fcause (s : State) : s.fresh.fcause = s.fcause := rfl
@[simp] theorem fresh_finfo (s : State) : s.fresh.finfo = s.finfo := rfl
@[simp] theorem fresh_arg (s : State) : s.fresh.arg = s.arg := rfl
@[simp] theorem fresh_latch (s : State) : s.fresh.latch = s.latch := rfl
@[simp] theorem fresh_res (s : State) : s.fresh.res = s.res := rfl
@[simp] theorem fresh_cfg (s : State) : s.fresh.cfg = s.cfg := rfl
@[simp] theorem fresh_size (s : State) : s.fresh.size = s.size := rfl
@[simp] theorem fresh_run (s : State) : s.fresh.run = s.run := rfl
@[simp] theorem fresh_mem (s : State) : s.fresh.mem = s.mem := rfl
@[simp] theorem fresh_source (s : State) : s.fresh.source = s.source := rfl
@[simp] theorem fresh_srcPos (s : State) : s.fresh.srcPos = s.srcPos := rfl
@[simp] theorem fresh_host (s : State) : s.fresh.host = s.host := rfl
@[simp] theorem fresh_during (s : State) : s.fresh.during = s.during := rfl
@[simp] theorem fresh_hostReads (s : State) : s.fresh.hostReads = s.hostReads := rfl
@[simp] theorem fresh_free (s : State) : s.fresh.free = s.free + 1 := rfl

/-! ### writeWords -/

@[simp] theorem writeWords_inst (s : State) (id : MemId) (i : Nat) (ws : List Word) : (s.writeWords id i ws).inst = s.inst := rfl
@[simp] theorem writeWords_active (s : State) (id : MemId) (i : Nat) (ws : List Word) : (s.writeWords id i ws).active = s.active := rfl
@[simp] theorem writeWords_status (s : State) (id : MemId) (i : Nat) (ws : List Word) : (s.writeWords id i ws).status = s.status := rfl
@[simp] theorem writeWords_result (s : State) (id : MemId) (i : Nat) (ws : List Word) : (s.writeWords id i ws).result = s.result := rfl
@[simp] theorem writeWords_fcause (s : State) (id : MemId) (i : Nat) (ws : List Word) : (s.writeWords id i ws).fcause = s.fcause := rfl
@[simp] theorem writeWords_finfo (s : State) (id : MemId) (i : Nat) (ws : List Word) : (s.writeWords id i ws).finfo = s.finfo := rfl
@[simp] theorem writeWords_arg (s : State) (id : MemId) (i : Nat) (ws : List Word) : (s.writeWords id i ws).arg = s.arg := rfl
@[simp] theorem writeWords_latch (s : State) (id : MemId) (i : Nat) (ws : List Word) : (s.writeWords id i ws).latch = s.latch := rfl
@[simp] theorem writeWords_res (s : State) (id : MemId) (i : Nat) (ws : List Word) : (s.writeWords id i ws).res = s.res := rfl
@[simp] theorem writeWords_cfg (s : State) (id : MemId) (i : Nat) (ws : List Word) : (s.writeWords id i ws).cfg = s.cfg := rfl
@[simp] theorem writeWords_size (s : State) (id : MemId) (i : Nat) (ws : List Word) : (s.writeWords id i ws).size = s.size := rfl
@[simp] theorem writeWords_run (s : State) (id : MemId) (i : Nat) (ws : List Word) : (s.writeWords id i ws).run = s.run := rfl
@[simp] theorem writeWords_mem (s : State) (id : MemId) (i : Nat) (ws : List Word) : (s.writeWords id i ws).mem = s.mem.set id ((s.mem.get id).storeWords i ws) := rfl
@[simp] theorem writeWords_source (s : State) (id : MemId) (i : Nat) (ws : List Word) : (s.writeWords id i ws).source = s.source := rfl
@[simp] theorem writeWords_srcPos (s : State) (id : MemId) (i : Nat) (ws : List Word) : (s.writeWords id i ws).srcPos = s.srcPos := rfl
@[simp] theorem writeWords_host (s : State) (id : MemId) (i : Nat) (ws : List Word) : (s.writeWords id i ws).host = s.host := rfl
@[simp] theorem writeWords_during (s : State) (id : MemId) (i : Nat) (ws : List Word) : (s.writeWords id i ws).during = s.during := rfl
@[simp] theorem writeWords_hostReads (s : State) (id : MemId) (i : Nat) (ws : List Word) : (s.writeWords id i ws).hostReads = s.hostReads := rfl
@[simp] theorem writeWords_free (s : State) (id : MemId) (i : Nat) (ws : List Word) : (s.writeWords id i ws).free = s.free := rfl

/-! ### writeCxs -/

@[simp] theorem writeCxs_inst (s : State) (id : MemId) (i : Nat) (cs : List Cx) : (s.writeCxs id i cs).inst = s.inst := rfl
@[simp] theorem writeCxs_active (s : State) (id : MemId) (i : Nat) (cs : List Cx) : (s.writeCxs id i cs).active = s.active := rfl
@[simp] theorem writeCxs_status (s : State) (id : MemId) (i : Nat) (cs : List Cx) : (s.writeCxs id i cs).status = s.status := rfl
@[simp] theorem writeCxs_result (s : State) (id : MemId) (i : Nat) (cs : List Cx) : (s.writeCxs id i cs).result = s.result := rfl
@[simp] theorem writeCxs_fcause (s : State) (id : MemId) (i : Nat) (cs : List Cx) : (s.writeCxs id i cs).fcause = s.fcause := rfl
@[simp] theorem writeCxs_finfo (s : State) (id : MemId) (i : Nat) (cs : List Cx) : (s.writeCxs id i cs).finfo = s.finfo := rfl
@[simp] theorem writeCxs_arg (s : State) (id : MemId) (i : Nat) (cs : List Cx) : (s.writeCxs id i cs).arg = s.arg := rfl
@[simp] theorem writeCxs_latch (s : State) (id : MemId) (i : Nat) (cs : List Cx) : (s.writeCxs id i cs).latch = s.latch := rfl
@[simp] theorem writeCxs_res (s : State) (id : MemId) (i : Nat) (cs : List Cx) : (s.writeCxs id i cs).res = s.res := rfl
@[simp] theorem writeCxs_cfg (s : State) (id : MemId) (i : Nat) (cs : List Cx) : (s.writeCxs id i cs).cfg = s.cfg := rfl
@[simp] theorem writeCxs_size (s : State) (id : MemId) (i : Nat) (cs : List Cx) : (s.writeCxs id i cs).size = s.size := rfl
@[simp] theorem writeCxs_run (s : State) (id : MemId) (i : Nat) (cs : List Cx) : (s.writeCxs id i cs).run = s.run := rfl
@[simp] theorem writeCxs_mem (s : State) (id : MemId) (i : Nat) (cs : List Cx) : (s.writeCxs id i cs).mem = s.mem.set id ((s.mem.get id).storeWords (2 * i) (cs.flatMap Cx.words)) := rfl
@[simp] theorem writeCxs_source (s : State) (id : MemId) (i : Nat) (cs : List Cx) : (s.writeCxs id i cs).source = s.source := rfl
@[simp] theorem writeCxs_srcPos (s : State) (id : MemId) (i : Nat) (cs : List Cx) : (s.writeCxs id i cs).srcPos = s.srcPos := rfl
@[simp] theorem writeCxs_host (s : State) (id : MemId) (i : Nat) (cs : List Cx) : (s.writeCxs id i cs).host = s.host := rfl
@[simp] theorem writeCxs_during (s : State) (id : MemId) (i : Nat) (cs : List Cx) : (s.writeCxs id i cs).during = s.during := rfl
@[simp] theorem writeCxs_hostReads (s : State) (id : MemId) (i : Nat) (cs : List Cx) : (s.writeCxs id i cs).hostReads = s.hostReads := rfl
@[simp] theorem writeCxs_free (s : State) (id : MemId) (i : Nat) (cs : List Cx) : (s.writeCxs id i cs).free = s.free := rfl

/-! ### setDet -/

@[simp] theorem setDet_inst (s : State) (d : DetState) : (s.setDet d).inst = s.inst := rfl
@[simp] theorem setDet_active (s : State) (d : DetState) : (s.setDet d).active = s.active := rfl
@[simp] theorem setDet_status (s : State) (d : DetState) : (s.setDet d).status = { s.status with det := d } := rfl
@[simp] theorem setDet_result (s : State) (d : DetState) : (s.setDet d).result = s.result := rfl
@[simp] theorem setDet_fcause (s : State) (d : DetState) : (s.setDet d).fcause = s.fcause := rfl
@[simp] theorem setDet_finfo (s : State) (d : DetState) : (s.setDet d).finfo = s.finfo := rfl
@[simp] theorem setDet_arg (s : State) (d : DetState) : (s.setDet d).arg = s.arg := rfl
@[simp] theorem setDet_latch (s : State) (d : DetState) : (s.setDet d).latch = s.latch := rfl
@[simp] theorem setDet_res (s : State) (d : DetState) : (s.setDet d).res = s.res := rfl
@[simp] theorem setDet_cfg (s : State) (d : DetState) : (s.setDet d).cfg = s.cfg := rfl
@[simp] theorem setDet_size (s : State) (d : DetState) : (s.setDet d).size = s.size := rfl
@[simp] theorem setDet_run (s : State) (d : DetState) : (s.setDet d).run = s.run := rfl
@[simp] theorem setDet_mem (s : State) (d : DetState) : (s.setDet d).mem = s.mem := rfl
@[simp] theorem setDet_source (s : State) (d : DetState) : (s.setDet d).source = s.source := rfl
@[simp] theorem setDet_srcPos (s : State) (d : DetState) : (s.setDet d).srcPos = s.srcPos := rfl
@[simp] theorem setDet_host (s : State) (d : DetState) : (s.setDet d).host = s.host := rfl
@[simp] theorem setDet_during (s : State) (d : DetState) : (s.setDet d).during = s.during := rfl
@[simp] theorem setDet_hostReads (s : State) (d : DetState) : (s.setDet d).hostReads = s.hostReads := rfl
@[simp] theorem setDet_free (s : State) (d : DetState) : (s.setDet d).free = s.free := rfl

/-! ### setLocked -/

@[simp] theorem setLocked_inst (s : State) (l : Bool) : (s.setLocked l).inst = s.inst := rfl
@[simp] theorem setLocked_active (s : State) (l : Bool) : (s.setLocked l).active = s.active := rfl
@[simp] theorem setLocked_status (s : State) (l : Bool) : (s.setLocked l).status = { s.status with locked := l } := rfl
@[simp] theorem setLocked_result (s : State) (l : Bool) : (s.setLocked l).result = s.result := rfl
@[simp] theorem setLocked_fcause (s : State) (l : Bool) : (s.setLocked l).fcause = s.fcause := rfl
@[simp] theorem setLocked_finfo (s : State) (l : Bool) : (s.setLocked l).finfo = s.finfo := rfl
@[simp] theorem setLocked_arg (s : State) (l : Bool) : (s.setLocked l).arg = s.arg := rfl
@[simp] theorem setLocked_latch (s : State) (l : Bool) : (s.setLocked l).latch = s.latch := rfl
@[simp] theorem setLocked_res (s : State) (l : Bool) : (s.setLocked l).res = s.res := rfl
@[simp] theorem setLocked_cfg (s : State) (l : Bool) : (s.setLocked l).cfg = s.cfg := rfl
@[simp] theorem setLocked_size (s : State) (l : Bool) : (s.setLocked l).size = s.size := rfl
@[simp] theorem setLocked_run (s : State) (l : Bool) : (s.setLocked l).run = s.run := rfl
@[simp] theorem setLocked_mem (s : State) (l : Bool) : (s.setLocked l).mem = s.mem := rfl
@[simp] theorem setLocked_source (s : State) (l : Bool) : (s.setLocked l).source = s.source := rfl
@[simp] theorem setLocked_srcPos (s : State) (l : Bool) : (s.setLocked l).srcPos = s.srcPos := rfl
@[simp] theorem setLocked_host (s : State) (l : Bool) : (s.setLocked l).host = s.host := rfl
@[simp] theorem setLocked_during (s : State) (l : Bool) : (s.setLocked l).during = s.during := rfl
@[simp] theorem setLocked_hostReads (s : State) (l : Bool) : (s.setLocked l).hostReads = s.hostReads := rfl
@[simp] theorem setLocked_free (s : State) (l : Bool) : (s.setLocked l).free = s.free := rfl

/-! ### setEos -/

@[simp] theorem setEos_inst (s : State) : s.setEos.inst = s.inst := rfl
@[simp] theorem setEos_active (s : State) : s.setEos.active = s.active := rfl
@[simp] theorem setEos_status (s : State) : s.setEos.status = { s.status with eos := true, session := .ended } := rfl
@[simp] theorem setEos_result (s : State) : s.setEos.result = s.result := rfl
@[simp] theorem setEos_fcause (s : State) : s.setEos.fcause = s.fcause := rfl
@[simp] theorem setEos_finfo (s : State) : s.setEos.finfo = s.finfo := rfl
@[simp] theorem setEos_arg (s : State) : s.setEos.arg = s.arg := rfl
@[simp] theorem setEos_latch (s : State) : s.setEos.latch = s.latch := rfl
@[simp] theorem setEos_res (s : State) : s.setEos.res = s.res := rfl
@[simp] theorem setEos_cfg (s : State) : s.setEos.cfg = s.cfg := rfl
@[simp] theorem setEos_size (s : State) : s.setEos.size = s.size := rfl
@[simp] theorem setEos_run (s : State) : s.setEos.run = s.run := rfl
@[simp] theorem setEos_mem (s : State) : s.setEos.mem = s.mem := rfl
@[simp] theorem setEos_source (s : State) : s.setEos.source = s.source := rfl
@[simp] theorem setEos_srcPos (s : State) : s.setEos.srcPos = s.srcPos := rfl
@[simp] theorem setEos_host (s : State) : s.setEos.host = s.host := rfl
@[simp] theorem setEos_during (s : State) : s.setEos.during = s.during := rfl
@[simp] theorem setEos_hostReads (s : State) : s.setEos.hostReads = s.hostReads := rfl
@[simp] theorem setEos_free (s : State) : s.setEos.free = s.free := rfl

/-! ### setLost -/

@[simp] theorem setLost_inst (s : State) : s.setLost.inst = s.inst := rfl
@[simp] theorem setLost_active (s : State) : s.setLost.active = s.active := rfl
@[simp] theorem setLost_status (s : State) : s.setLost.status = { s.status with det := .lost, lost := true, session := .ended } := rfl
@[simp] theorem setLost_result (s : State) : s.setLost.result = s.result := rfl
@[simp] theorem setLost_fcause (s : State) : s.setLost.fcause = s.fcause := rfl
@[simp] theorem setLost_finfo (s : State) : s.setLost.finfo = s.finfo := rfl
@[simp] theorem setLost_arg (s : State) : s.setLost.arg = s.arg := rfl
@[simp] theorem setLost_latch (s : State) : s.setLost.latch = s.latch := rfl
@[simp] theorem setLost_res (s : State) : s.setLost.res = s.res := rfl
@[simp] theorem setLost_cfg (s : State) : s.setLost.cfg = s.cfg := rfl
@[simp] theorem setLost_size (s : State) : s.setLost.size = s.size := rfl
@[simp] theorem setLost_run (s : State) : s.setLost.run = s.run := rfl
@[simp] theorem setLost_mem (s : State) : s.setLost.mem = s.mem := rfl
@[simp] theorem setLost_source (s : State) : s.setLost.source = s.source := rfl
@[simp] theorem setLost_srcPos (s : State) : s.setLost.srcPos = s.srcPos := rfl
@[simp] theorem setLost_host (s : State) : s.setLost.host = s.host := rfl
@[simp] theorem setLost_during (s : State) : s.setLost.during = s.during := rfl
@[simp] theorem setLost_hostReads (s : State) : s.setLost.hostReads = s.hostReads := rfl
@[simp] theorem setLost_free (s : State) : s.setLost.free = s.free := rfl

/-! ### pushRead -/

@[simp] theorem pushRead_inst (s : State) (v : Word) : (s.pushRead v).inst = s.inst := rfl
@[simp] theorem pushRead_active (s : State) (v : Word) : (s.pushRead v).active = s.active := rfl
@[simp] theorem pushRead_status (s : State) (v : Word) : (s.pushRead v).status = s.status := rfl
@[simp] theorem pushRead_result (s : State) (v : Word) : (s.pushRead v).result = s.result := rfl
@[simp] theorem pushRead_fcause (s : State) (v : Word) : (s.pushRead v).fcause = s.fcause := rfl
@[simp] theorem pushRead_finfo (s : State) (v : Word) : (s.pushRead v).finfo = s.finfo := rfl
@[simp] theorem pushRead_arg (s : State) (v : Word) : (s.pushRead v).arg = s.arg := rfl
@[simp] theorem pushRead_latch (s : State) (v : Word) : (s.pushRead v).latch = s.latch := rfl
@[simp] theorem pushRead_res (s : State) (v : Word) : (s.pushRead v).res = s.res := rfl
@[simp] theorem pushRead_cfg (s : State) (v : Word) : (s.pushRead v).cfg = s.cfg := rfl
@[simp] theorem pushRead_size (s : State) (v : Word) : (s.pushRead v).size = s.size := rfl
@[simp] theorem pushRead_run (s : State) (v : Word) : (s.pushRead v).run = s.run := rfl
@[simp] theorem pushRead_mem (s : State) (v : Word) : (s.pushRead v).mem = s.mem := rfl
@[simp] theorem pushRead_source (s : State) (v : Word) : (s.pushRead v).source = s.source := rfl
@[simp] theorem pushRead_srcPos (s : State) (v : Word) : (s.pushRead v).srcPos = s.srcPos := rfl
@[simp] theorem pushRead_host (s : State) (v : Word) : (s.pushRead v).host = s.host := rfl
@[simp] theorem pushRead_during (s : State) (v : Word) : (s.pushRead v).during = s.during := rfl
@[simp] theorem pushRead_hostReads (s : State) (v : Word) : (s.pushRead v).hostReads = v :: s.hostReads := rfl
@[simp] theorem pushRead_free (s : State) (v : Word) : (s.pushRead v).free = s.free := rfl

/-! ### hostFault -/

@[simp] theorem hostFault_inst (s : State) (off : Nat) : (s.hostFault off).inst = s.inst := rfl
@[simp] theorem hostFault_active (s : State) (off : Nat) : (s.hostFault off).active = s.active := rfl
@[simp] theorem hostFault_status (s : State) (off : Nat) : (s.hostFault off).status = { s.status with fault := true } := rfl
@[simp] theorem hostFault_result (s : State) (off : Nat) : (s.hostFault off).result = s.result := rfl
@[simp] theorem hostFault_fcause (s : State) (off : Nat) : (s.hostFault off).fcause = if s.status.fault then s.fcause else Cause.hostAccess.code := rfl
@[simp] theorem hostFault_finfo (s : State) (off : Nat) : (s.hostFault off).finfo = if s.status.fault then s.finfo else BitVec.ofNat 32 off := rfl
@[simp] theorem hostFault_arg (s : State) (off : Nat) : (s.hostFault off).arg = s.arg := rfl
@[simp] theorem hostFault_latch (s : State) (off : Nat) : (s.hostFault off).latch = s.latch := rfl
@[simp] theorem hostFault_res (s : State) (off : Nat) : (s.hostFault off).res = s.res := rfl
@[simp] theorem hostFault_cfg (s : State) (off : Nat) : (s.hostFault off).cfg = s.cfg := rfl
@[simp] theorem hostFault_size (s : State) (off : Nat) : (s.hostFault off).size = s.size := rfl
@[simp] theorem hostFault_run (s : State) (off : Nat) : (s.hostFault off).run = s.run := rfl
@[simp] theorem hostFault_mem (s : State) (off : Nat) : (s.hostFault off).mem = s.mem := rfl
@[simp] theorem hostFault_source (s : State) (off : Nat) : (s.hostFault off).source = s.source := rfl
@[simp] theorem hostFault_srcPos (s : State) (off : Nat) : (s.hostFault off).srcPos = s.srcPos := rfl
@[simp] theorem hostFault_host (s : State) (off : Nat) : (s.hostFault off).host = s.host := rfl
@[simp] theorem hostFault_during (s : State) (off : Nat) : (s.hostFault off).during = s.during := rfl
@[simp] theorem hostFault_hostReads (s : State) (off : Nat) : (s.hostFault off).hostReads = s.hostReads := rfl
@[simp] theorem hostFault_free (s : State) (off : Nat) : (s.hostFault off).free = s.free := rfl

/-! ### closeWindow -/

@[simp] theorem closeWindow_inst (s : State) (x y : Word) : (s.closeWindow x y).inst = s.inst := rfl
@[simp] theorem closeWindow_active (s : State) (x y : Word) : (s.closeWindow x y).active = s.active := rfl
@[simp] theorem closeWindow_status (s : State) (x y : Word) : (s.closeWindow x y).status = s.status := rfl
@[simp] theorem closeWindow_result (s : State) (x y : Word) : (s.closeWindow x y).result = s.result := rfl
@[simp] theorem closeWindow_fcause (s : State) (x y : Word) : (s.closeWindow x y).fcause = s.fcause := rfl
@[simp] theorem closeWindow_finfo (s : State) (x y : Word) : (s.closeWindow x y).finfo = s.finfo := rfl
@[simp] theorem closeWindow_arg (s : State) (x y : Word) : (s.closeWindow x y).arg = s.arg := rfl
@[simp] theorem closeWindow_latch (s : State) (x y : Word) : (s.closeWindow x y).latch = s.latch := rfl
@[simp] theorem closeWindow_res (s : State) (x y : Word) : (s.closeWindow x y).res = s.res := rfl
@[simp] theorem closeWindow_cfg (s : State) (x y : Word) : (s.closeWindow x y).cfg = s.cfg := rfl
@[simp] theorem closeWindow_size (s : State) (x y : Word) : (s.closeWindow x y).size = s.size := rfl
@[simp] theorem closeWindow_run (s : State) (x y : Word) : (s.closeWindow x y).run = { s.run with
      iqdcAvgX := fdiv x (i2f s.run.iqdcMaxCnt.toNat)
      iqdcAvgY := fdiv y (i2f s.run.iqdcMaxCnt.toNat)
      iqdcSumX := fzero
      iqdcSumY := fzero
      iqdcCnt := 0#32
      iqdcMaxCnt :=
        if s.run.iqdcMaxCnt.toNat < s.iqdcLimit then s.run.iqdcMaxCnt + s.run.iqdcMaxCnt else s.run.iqdcMaxCnt } := rfl
@[simp] theorem closeWindow_mem (s : State) (x y : Word) : (s.closeWindow x y).mem = s.mem := rfl
@[simp] theorem closeWindow_source (s : State) (x y : Word) : (s.closeWindow x y).source = s.source := rfl
@[simp] theorem closeWindow_srcPos (s : State) (x y : Word) : (s.closeWindow x y).srcPos = s.srcPos := rfl
@[simp] theorem closeWindow_host (s : State) (x y : Word) : (s.closeWindow x y).host = s.host := rfl
@[simp] theorem closeWindow_during (s : State) (x y : Word) : (s.closeWindow x y).during = s.during := rfl
@[simp] theorem closeWindow_hostReads (s : State) (x y : Word) : (s.closeWindow x y).hostReads = s.hostReads := rfl
@[simp] theorem closeWindow_free (s : State) (x y : Word) : (s.closeWindow x y).free = s.free := rfl

/-! ### appendSample -/

@[simp] theorem appendSample_inst (s : State) (n v : Word) : (s.appendSample n v).inst = s.inst := rfl
@[simp] theorem appendSample_active (s : State) (n v : Word) : (s.appendSample n v).active = s.active := rfl
@[simp] theorem appendSample_status (s : State) (n v : Word) : (s.appendSample n v).status = s.status := rfl
@[simp] theorem appendSample_result (s : State) (n v : Word) : (s.appendSample n v).result = s.result := rfl
@[simp] theorem appendSample_fcause (s : State) (n v : Word) : (s.appendSample n v).fcause = s.fcause := rfl
@[simp] theorem appendSample_finfo (s : State) (n v : Word) : (s.appendSample n v).finfo = s.finfo := rfl
@[simp] theorem appendSample_arg (s : State) (n v : Word) : (s.appendSample n v).arg = s.arg := rfl
@[simp] theorem appendSample_latch (s : State) (n v : Word) : (s.appendSample n v).latch = s.latch := rfl
@[simp] theorem appendSample_res (s : State) (n v : Word) : (s.appendSample n v).res = s.res := rfl
@[simp] theorem appendSample_cfg (s : State) (n v : Word) : (s.appendSample n v).cfg = s.cfg := rfl
@[simp] theorem appendSample_size (s : State) (n v : Word) : (s.appendSample n v).size = s.size := rfl
@[simp] theorem appendSample_run (s : State) (n v : Word) : (s.appendSample n v).run = { s.run with sampleOut := n - s.cfg.delay, sampleIn := n + 1#32 } := rfl
@[simp] theorem appendSample_mem (s : State) (n v : Word) : (s.appendSample n v).mem = s.mem.set .bufs ((s.mem.get .bufs).storeWords (s.circ n) [v]) := rfl
@[simp] theorem appendSample_source (s : State) (n v : Word) : (s.appendSample n v).source = s.source := rfl
@[simp] theorem appendSample_srcPos (s : State) (n v : Word) : (s.appendSample n v).srcPos = s.srcPos := rfl
@[simp] theorem appendSample_host (s : State) (n v : Word) : (s.appendSample n v).host = s.host := rfl
@[simp] theorem appendSample_during (s : State) (n v : Word) : (s.appendSample n v).during = s.during := rfl
@[simp] theorem appendSample_hostReads (s : State) (n v : Word) : (s.appendSample n v).hostReads = s.hostReads := rfl
@[simp] theorem appendSample_free (s : State) (n v : Word) : (s.appendSample n v).free = s.free := rfl

/-! ### recordDc -/

@[simp] theorem recordDc_inst (s : State) (dc : Word) : (s.recordDc dc).inst = s.inst := rfl
@[simp] theorem recordDc_active (s : State) (dc : Word) : (s.recordDc dc).active = s.active := rfl
@[simp] theorem recordDc_status (s : State) (dc : Word) : (s.recordDc dc).status = s.status := rfl
@[simp] theorem recordDc_result (s : State) (dc : Word) : (s.recordDc dc).result = s.result := rfl
@[simp] theorem recordDc_fcause (s : State) (dc : Word) : (s.recordDc dc).fcause = s.fcause := rfl
@[simp] theorem recordDc_finfo (s : State) (dc : Word) : (s.recordDc dc).finfo = s.finfo := rfl
@[simp] theorem recordDc_arg (s : State) (dc : Word) : (s.recordDc dc).arg = s.arg := rfl
@[simp] theorem recordDc_latch (s : State) (dc : Word) : (s.recordDc dc).latch = s.latch := rfl
@[simp] theorem recordDc_res (s : State) (dc : Word) : (s.recordDc dc).res = s.res := rfl
@[simp] theorem recordDc_cfg (s : State) (dc : Word) : (s.recordDc dc).cfg = s.cfg := rfl
@[simp] theorem recordDc_size (s : State) (dc : Word) : (s.recordDc dc).size = s.size := rfl
@[simp] theorem recordDc_run (s : State) (dc : Word) : (s.recordDc dc).run = { s.run with dc := dc, ddf := s.measuredDdf dc } := rfl
@[simp] theorem recordDc_mem (s : State) (dc : Word) : (s.recordDc dc).mem = s.mem := rfl
@[simp] theorem recordDc_source (s : State) (dc : Word) : (s.recordDc dc).source = s.source := rfl
@[simp] theorem recordDc_srcPos (s : State) (dc : Word) : (s.recordDc dc).srcPos = s.srcPos := rfl
@[simp] theorem recordDc_host (s : State) (dc : Word) : (s.recordDc dc).host = s.host := rfl
@[simp] theorem recordDc_during (s : State) (dc : Word) : (s.recordDc dc).during = s.during := rfl
@[simp] theorem recordDc_hostReads (s : State) (dc : Word) : (s.recordDc dc).hostReads = s.hostReads := rfl
@[simp] theorem recordDc_free (s : State) (dc : Word) : (s.recordDc dc).free = s.free := rfl

/-! ### countSample -/

@[simp] theorem countSample_inst (s : State) : s.countSample.inst = s.inst := rfl
@[simp] theorem countSample_active (s : State) : s.countSample.active = s.active := rfl
@[simp] theorem countSample_status (s : State) : s.countSample.status = s.status := rfl
@[simp] theorem countSample_result (s : State) : s.countSample.result = s.result := rfl
@[simp] theorem countSample_fcause (s : State) : s.countSample.fcause = s.fcause := rfl
@[simp] theorem countSample_finfo (s : State) : s.countSample.finfo = s.finfo := rfl
@[simp] theorem countSample_arg (s : State) : s.countSample.arg = s.arg := rfl
@[simp] theorem countSample_latch (s : State) : s.countSample.latch = s.latch := rfl
@[simp] theorem countSample_res (s : State) : s.countSample.res = s.res := rfl
@[simp] theorem countSample_cfg (s : State) : s.countSample.cfg = s.cfg := rfl
@[simp] theorem countSample_size (s : State) : s.countSample.size = s.size := rfl
@[simp] theorem countSample_run (s : State) : s.countSample.run = { s.run with nosig := s.run.nosig + 1#32, kcnt := s.run.kcnt + 1#32 } := rfl
@[simp] theorem countSample_mem (s : State) : s.countSample.mem = s.mem := rfl
@[simp] theorem countSample_source (s : State) : s.countSample.source = s.source := rfl
@[simp] theorem countSample_srcPos (s : State) : s.countSample.srcPos = s.srcPos := rfl
@[simp] theorem countSample_host (s : State) : s.countSample.host = s.host := rfl
@[simp] theorem countSample_during (s : State) : s.countSample.during = s.during := rfl
@[simp] theorem countSample_hostReads (s : State) : s.countSample.hostReads = s.hostReads := rfl
@[simp] theorem countSample_free (s : State) : s.countSample.free = s.free := rfl

/-! ### startSearch -/

@[simp] theorem startSearch_inst (s : State) : s.startSearch.inst = s.inst := rfl
@[simp] theorem startSearch_active (s : State) : s.startSearch.active = s.active := rfl
@[simp] theorem startSearch_status (s : State) : s.startSearch.status = { s.status with det := .searching } := rfl
@[simp] theorem startSearch_result (s : State) : s.startSearch.result = s.result := rfl
@[simp] theorem startSearch_fcause (s : State) : s.startSearch.fcause = s.fcause := rfl
@[simp] theorem startSearch_finfo (s : State) : s.startSearch.finfo = s.finfo := rfl
@[simp] theorem startSearch_arg (s : State) : s.startSearch.arg = s.arg := rfl
@[simp] theorem startSearch_latch (s : State) : s.startSearch.latch = s.latch := rfl
@[simp] theorem startSearch_res (s : State) : s.startSearch.res = s.res := rfl
@[simp] theorem startSearch_cfg (s : State) : s.startSearch.cfg = s.cfg := rfl
@[simp] theorem startSearch_size (s : State) : s.startSearch.size = s.size := rfl
@[simp] theorem startSearch_run (s : State) : s.startSearch.run = { s.run with kcnt := 0#32 } := rfl
@[simp] theorem startSearch_mem (s : State) : s.startSearch.mem = s.mem := rfl
@[simp] theorem startSearch_source (s : State) : s.startSearch.source = s.source := rfl
@[simp] theorem startSearch_srcPos (s : State) : s.startSearch.srcPos = s.srcPos := rfl
@[simp] theorem startSearch_host (s : State) : s.startSearch.host = s.host := rfl
@[simp] theorem startSearch_during (s : State) : s.startSearch.during = s.during := rfl
@[simp] theorem startSearch_hostReads (s : State) : s.startSearch.hostReads = s.hostReads := rfl
@[simp] theorem startSearch_free (s : State) : s.startSearch.free = s.free := rfl

/-! ### headerFound -/

@[simp] theorem headerFound_inst (s : State) (errs : Word) : (s.headerFound errs).inst = s.inst := rfl
@[simp] theorem headerFound_active (s : State) (errs : Word) : (s.headerFound errs).active = s.active := rfl
@[simp] theorem headerFound_status (s : State) (errs : Word) : (s.headerFound errs).status = { s.status with det := .headerVerified } := rfl
@[simp] theorem headerFound_result (s : State) (errs : Word) : (s.headerFound errs).result = s.result := rfl
@[simp] theorem headerFound_fcause (s : State) (errs : Word) : (s.headerFound errs).fcause = s.fcause := rfl
@[simp] theorem headerFound_finfo (s : State) (errs : Word) : (s.headerFound errs).finfo = s.finfo := rfl
@[simp] theorem headerFound_arg (s : State) (errs : Word) : (s.headerFound errs).arg = s.arg := rfl
@[simp] theorem headerFound_latch (s : State) (errs : Word) : (s.headerFound errs).latch = s.latch := rfl
@[simp] theorem headerFound_res (s : State) (errs : Word) : (s.headerFound errs).res = { s.res with r0 := s.run.mvPos, r1 := s.run.mv, r2 := errs } := rfl
@[simp] theorem headerFound_cfg (s : State) (errs : Word) : (s.headerFound errs).cfg = s.cfg := rfl
@[simp] theorem headerFound_size (s : State) (errs : Word) : (s.headerFound errs).size = s.size := rfl
@[simp] theorem headerFound_run (s : State) (errs : Word) : (s.headerFound errs).run = { s.run with nosig := 0#32 } := rfl
@[simp] theorem headerFound_mem (s : State) (errs : Word) : (s.headerFound errs).mem = s.mem := rfl
@[simp] theorem headerFound_source (s : State) (errs : Word) : (s.headerFound errs).source = s.source := rfl
@[simp] theorem headerFound_srcPos (s : State) (errs : Word) : (s.headerFound errs).srcPos = s.srcPos := rfl
@[simp] theorem headerFound_host (s : State) (errs : Word) : (s.headerFound errs).host = s.host := rfl
@[simp] theorem headerFound_during (s : State) (errs : Word) : (s.headerFound errs).during = s.during := rfl
@[simp] theorem headerFound_hostReads (s : State) (errs : Word) : (s.headerFound errs).hostReads = s.hostReads := rfl
@[simp] theorem headerFound_free (s : State) (errs : Word) : (s.headerFound errs).free = s.free := rfl

/-! ### tickSc -/

@[simp] theorem tickSc_inst (s : State) : s.tickSc.inst = s.inst := rfl
@[simp] theorem tickSc_active (s : State) : s.tickSc.active = s.active := rfl
@[simp] theorem tickSc_status (s : State) : s.tickSc.status = s.status := rfl
@[simp] theorem tickSc_result (s : State) : s.tickSc.result = s.result := rfl
@[simp] theorem tickSc_fcause (s : State) : s.tickSc.fcause = s.fcause := rfl
@[simp] theorem tickSc_finfo (s : State) : s.tickSc.finfo = s.finfo := rfl
@[simp] theorem tickSc_arg (s : State) : s.tickSc.arg = s.arg := rfl
@[simp] theorem tickSc_latch (s : State) : s.tickSc.latch = s.latch := rfl
@[simp] theorem tickSc_res (s : State) : s.tickSc.res = s.res := rfl
@[simp] theorem tickSc_cfg (s : State) : s.tickSc.cfg = s.cfg := rfl
@[simp] theorem tickSc_size (s : State) : s.tickSc.size = s.size := rfl
@[simp] theorem tickSc_run (s : State) : s.tickSc.run = { s.run with sc := s.run.sc + 1#32 } := rfl
@[simp] theorem tickSc_mem (s : State) : s.tickSc.mem = s.mem := rfl
@[simp] theorem tickSc_source (s : State) : s.tickSc.source = s.source := rfl
@[simp] theorem tickSc_srcPos (s : State) : s.tickSc.srcPos = s.srcPos := rfl
@[simp] theorem tickSc_host (s : State) : s.tickSc.host = s.host := rfl
@[simp] theorem tickSc_during (s : State) : s.tickSc.during = s.during := rfl
@[simp] theorem tickSc_hostReads (s : State) : s.tickSc.hostReads = s.hostReads := rfl
@[simp] theorem tickSc_free (s : State) : s.tickSc.free = s.free := rfl

/-! ### restartClock -/

@[simp] theorem restartClock_inst (s : State) : s.restartClock.inst = s.inst := rfl
@[simp] theorem restartClock_active (s : State) : s.restartClock.active = s.active := rfl
@[simp] theorem restartClock_status (s : State) : s.restartClock.status = s.status := rfl
@[simp] theorem restartClock_result (s : State) : s.restartClock.result = s.result := rfl
@[simp] theorem restartClock_fcause (s : State) : s.restartClock.fcause = s.fcause := rfl
@[simp] theorem restartClock_finfo (s : State) : s.restartClock.finfo = s.finfo := rfl
@[simp] theorem restartClock_arg (s : State) : s.restartClock.arg = s.arg := rfl
@[simp] theorem restartClock_latch (s : State) : s.restartClock.latch = s.latch := rfl
@[simp] theorem restartClock_res (s : State) : s.restartClock.res = s.res := rfl
@[simp] theorem restartClock_cfg (s : State) : s.restartClock.cfg = s.cfg := rfl
@[simp] theorem restartClock_size (s : State) : s.restartClock.size = s.size := rfl
@[simp] theorem restartClock_run (s : State) : s.restartClock.run = { s.run with sc := 0#32, bg := 0#48 } := rfl
@[simp] theorem restartClock_mem (s : State) : s.restartClock.mem = s.mem := rfl
@[simp] theorem restartClock_source (s : State) : s.restartClock.source = s.source := rfl
@[simp] theorem restartClock_srcPos (s : State) : s.restartClock.srcPos = s.srcPos := rfl
@[simp] theorem restartClock_host (s : State) : s.restartClock.host = s.host := rfl
@[simp] theorem restartClock_during (s : State) : s.restartClock.during = s.during := rfl
@[simp] theorem restartClock_hostReads (s : State) : s.restartClock.hostReads = s.hostReads := rfl
@[simp] theorem restartClock_free (s : State) : s.restartClock.free = s.free := rfl

/-! ### initSizes -/

@[simp] theorem initSizes_inst (s : State) : s.initSizes.inst = s.inst := by
  rcases s with ⟨a, _, _, _, _, _, _, _, _, _, _, _, _, _, _, _, _, _, _⟩; exact Eq.refl a
@[simp] theorem initSizes_active (s : State) : s.initSizes.active = s.active := by
  rcases s with ⟨_, a, _, _, _, _, _, _, _, _, _, _, _, _, _, _, _, _, _⟩; exact Eq.refl a
@[simp] theorem initSizes_status (s : State) : s.initSizes.status = s.status := by
  rcases s with ⟨_, _, a, _, _, _, _, _, _, _, _, _, _, _, _, _, _, _, _⟩; exact Eq.refl a
@[simp] theorem initSizes_result (s : State) : s.initSizes.result = s.result := by
  rcases s with ⟨_, _, _, a, _, _, _, _, _, _, _, _, _, _, _, _, _, _, _⟩; exact Eq.refl a
@[simp] theorem initSizes_fcause (s : State) : s.initSizes.fcause = s.fcause := by
  rcases s with ⟨_, _, _, _, a, _, _, _, _, _, _, _, _, _, _, _, _, _, _⟩; exact Eq.refl a
@[simp] theorem initSizes_finfo (s : State) : s.initSizes.finfo = s.finfo := by
  rcases s with ⟨_, _, _, _, _, a, _, _, _, _, _, _, _, _, _, _, _, _, _⟩; exact Eq.refl a
@[simp] theorem initSizes_arg (s : State) : s.initSizes.arg = s.arg := by
  rcases s with ⟨_, _, _, _, _, _, a, _, _, _, _, _, _, _, _, _, _, _, _⟩; exact Eq.refl a
@[simp] theorem initSizes_latch (s : State) : s.initSizes.latch = s.latch := by
  rcases s with ⟨_, _, _, _, _, _, _, a, _, _, _, _, _, _, _, _, _, _, _⟩; exact Eq.refl a
@[simp] theorem initSizes_res (s : State) : s.initSizes.res = s.res := by
  rcases s with ⟨_, _, _, _, _, _, _, _, a, _, _, _, _, _, _, _, _, _, _⟩; exact Eq.refl a
@[simp] theorem initSizes_cfg (s : State) : s.initSizes.cfg = s.cfg := by
  rcases s with ⟨_, _, _, _, _, _, _, _, _, a, _, _, _, _, _, _, _, _, _⟩; exact Eq.refl a
@[simp] theorem initSizes_size (s : State) : s.initSizes.size = { s.size with
      n := BitVec.ofNat 32 s.cfg.transformLen
      log2n := BitVec.ofNat 32 s.cfg.transformLog
      m := BitVec.ofNat 32 s.cfg.bufferLen
      l := BitVec.ofNat 32 s.cfg.templateLen
      k := s.cfg.k
      rotLen := if s.cfg.decim then BitVec.ofNat 32 s.cfg.rotationLen else 0#32
      decm := BitVec.ofNat 32 s.cfg.decimation } := rfl
@[simp] theorem initSizes_run (s : State) : s.initSizes.run = s.run := by
  rcases s with ⟨_, _, _, _, _, _, _, _, _, _, _, a, _, _, _, _, _, _, _⟩; exact Eq.refl a
@[simp] theorem initSizes_mem (s : State) : s.initSizes.mem = s.mem := by
  rcases s with ⟨_, _, _, _, _, _, _, _, _, _, _, _, a, _, _, _, _, _, _⟩; exact Eq.refl a
@[simp] theorem initSizes_source (s : State) : s.initSizes.source = s.source := by
  rcases s with ⟨_, _, _, _, _, _, _, _, _, _, _, _, _, a, _, _, _, _, _⟩; exact Eq.refl a
@[simp] theorem initSizes_srcPos (s : State) : s.initSizes.srcPos = s.srcPos := by
  rcases s with ⟨_, _, _, _, _, _, _, _, _, _, _, _, _, _, a, _, _, _, _⟩; exact Eq.refl a
@[simp] theorem initSizes_host (s : State) : s.initSizes.host = s.host := by
  rcases s with ⟨_, _, _, _, _, _, _, _, _, _, _, _, _, _, _, a, _, _, _⟩; exact Eq.refl a
@[simp] theorem initSizes_during (s : State) : s.initSizes.during = s.during := by
  rcases s with ⟨_, _, _, _, _, _, _, _, _, _, _, _, _, _, _, _, a, _, _⟩; exact Eq.refl a
@[simp] theorem initSizes_hostReads (s : State) : s.initSizes.hostReads = s.hostReads := by
  rcases s with ⟨_, _, _, _, _, _, _, _, _, _, _, _, _, _, _, _, _, a, _⟩; exact Eq.refl a
@[simp] theorem initSizes_free (s : State) : s.initSizes.free = s.free := by
  rcases s with ⟨_, _, _, _, _, _, _, _, _, _, _, _, _, _, _, _, _, _, a⟩; exact Eq.refl a

/-! ### initRun -/

@[simp] theorem initRun_inst (s : State) : s.initRun.inst = s.inst := rfl
@[simp] theorem initRun_active (s : State) : s.initRun.active = s.active := rfl
@[simp] theorem initRun_status (s : State) : s.initRun.status = s.status := rfl
@[simp] theorem initRun_result (s : State) : s.initRun.result = s.result := rfl
@[simp] theorem initRun_fcause (s : State) : s.initRun.fcause = s.fcause := rfl
@[simp] theorem initRun_finfo (s : State) : s.initRun.finfo = s.finfo := rfl
@[simp] theorem initRun_arg (s : State) : s.initRun.arg = s.arg := rfl
@[simp] theorem initRun_latch (s : State) : s.initRun.latch = s.latch := rfl
@[simp] theorem initRun_res (s : State) : s.initRun.res = s.res := rfl
@[simp] theorem initRun_cfg (s : State) : s.initRun.cfg = s.cfg := rfl
@[simp] theorem initRun_size (s : State) : s.initRun.size = s.size := rfl
@[simp] theorem initRun_run (s : State) : s.initRun.run = { Run.reset with
      sampleOut := 0xFFFFFFFF#32 - s.cfg.delay
      iqdcMaxCnt := BitVec.ofNat 32 (s.cfg.sr.toNat / s.inst.iqdcDiv) } := rfl
@[simp] theorem initRun_mem (s : State) : s.initRun.mem = s.mem := rfl
@[simp] theorem initRun_source (s : State) : s.initRun.source = s.source := rfl
@[simp] theorem initRun_srcPos (s : State) : s.initRun.srcPos = s.srcPos := rfl
@[simp] theorem initRun_host (s : State) : s.initRun.host = s.host := rfl
@[simp] theorem initRun_during (s : State) : s.initRun.during = s.during := rfl
@[simp] theorem initRun_hostReads (s : State) : s.initRun.hostReads = s.hostReads := rfl
@[simp] theorem initRun_free (s : State) : s.initRun.free = s.free := rfl

/-! ### initStatus -/

@[simp] theorem initStatus_inst (s : State) : s.initStatus.inst = s.inst := rfl
@[simp] theorem initStatus_active (s : State) : s.initStatus.active = s.active := rfl
@[simp] theorem initStatus_status (s : State) : s.initStatus.status = { s.status with locked := !s.cfg.dcMode, det := .searching, session := .ready } := rfl
@[simp] theorem initStatus_result (s : State) : s.initStatus.result = s.result := rfl
@[simp] theorem initStatus_fcause (s : State) : s.initStatus.fcause = s.fcause := rfl
@[simp] theorem initStatus_finfo (s : State) : s.initStatus.finfo = s.finfo := rfl
@[simp] theorem initStatus_arg (s : State) : s.initStatus.arg = s.arg := rfl
@[simp] theorem initStatus_latch (s : State) : s.initStatus.latch = s.latch := rfl
@[simp] theorem initStatus_res (s : State) : s.initStatus.res = s.res := rfl
@[simp] theorem initStatus_cfg (s : State) : s.initStatus.cfg = s.cfg := rfl
@[simp] theorem initStatus_size (s : State) : s.initStatus.size = s.size := rfl
@[simp] theorem initStatus_run (s : State) : s.initStatus.run = s.run := rfl
@[simp] theorem initStatus_mem (s : State) : s.initStatus.mem = s.mem := rfl
@[simp] theorem initStatus_source (s : State) : s.initStatus.source = s.source := rfl
@[simp] theorem initStatus_srcPos (s : State) : s.initStatus.srcPos = s.srcPos := rfl
@[simp] theorem initStatus_host (s : State) : s.initStatus.host = s.host := rfl
@[simp] theorem initStatus_during (s : State) : s.initStatus.during = s.during := rfl
@[simp] theorem initStatus_hostReads (s : State) : s.initStatus.hostReads = s.hostReads := rfl
@[simp] theorem initStatus_free (s : State) : s.initStatus.free = s.free := rfl

end Sys2Proof.Machine
end

