-- ==== Sys2Proof/Laws/Memory.lean ====
section
/-! SUPPORT. The memories: what a read gives after a write, and that every memory operation keeps the canonical form. -/

namespace Sys2Proof

theorem wordBytes_length (w : Word) : (wordBytes w).length = 4 := rfl

theorem bytesWord_wordBytes (w : Word) :
    bytesWord (w.extractLsb' 0 8) (w.extractLsb' 8 8) (w.extractLsb' 16 8) (w.extractLsb' 24 8) = w := by
  apply BitVec.eq_of_getLsbD_eq
  intro i hi
  have key : ∀ c j, j < 8 → c + j = i → (decide (j < 8) && w.getLsbD (c + j)) = w.getLsbD i := by
    rintro c j hj rfl
    simp [hj]
  simp only [bytesWord, BitVec.getLsbD_append, BitVec.getLsbD_extractLsb']
  split
  · split
    · split
      · exact key _ _ (by omega) (by omega)
      · exact key _ _ (by omega) (by omega)
    · exact key _ _ (by omega) (by omega)
  · exact key _ _ (by omega) (by omega)

namespace Machine

/-! ### Bytes -/

theorem Memory.get_append (m n : Memory) (x : Nat) : Memory.get (m ++ n) x = (Memory.get m x).or (Memory.get n x) := by
  induction m with
  | nil => simp [Memory.get]
  | cons c r ih =>
    simp only [List.cons_append, Memory.get]
    split
    · simp
    · exact ih

theorem Memory.get_filter (m : Memory) (p : Nat → Bool) (x : Nat) :
    Memory.get (m.filter (fun c => p c.1)) x = if p x then Memory.get m x else none := by
  induction m with
  | nil => simp [Memory.get]
  | cons c r ih =>
    by_cases hc : p c.1
    · rw [List.filter_cons_of_pos (p := fun c : Host.Cell => p c.1) hc, Memory.get, Memory.get, ih]
      by_cases hx : c.1 = x
      · subst hx; simp [hc]
      · simp [hx]
    · rw [List.filter_cons_of_neg (p := fun c : Host.Cell => p c.1) hc, Memory.get, ih]
      by_cases hx : c.1 = x
      · subst hx; simp [hc]
      · simp [hx]

theorem get_cellsFrom (bs : List Byte) (a x : Nat) :
    Memory.get (cellsFrom a bs) x = if a ≤ x then bs[x - a]? else none := by
  induction bs generalizing a with
  | nil => simp [cellsFrom, Memory.get]
  | cons b r ih =>
    simp only [cellsFrom, Memory.get, ih]
    by_cases h : a = x
    · subst h; simp
    · by_cases h2 : a ≤ x
      · have h3 : a + 1 ≤ x := by omega
        have : x - a = (x - (a + 1)) + 1 := by omega
        simp [h, h2, h3, this]
      · have h3 : ¬ a + 1 ≤ x := by omega
        simp [h, h2, h3]

/-- A byte after a store: the stored one inside the stored range, the old one outside. -/
theorem Memory.get_store (m : Memory) (a : Nat) (bs : List Byte) (x : Nat) :
    (m.store a bs).get x = if a ≤ x ∧ x < a + bs.length then bs[x - a]? else m.get x := by
  have h1 := Memory.get_filter m (fun n => decide (n < a)) x
  have h2 := Memory.get_filter m (fun n => decide (a + bs.length ≤ n)) x
  unfold Memory.store
  rw [Memory.get_append, Memory.get_append, h1, h2, get_cellsFrom]
  by_cases hx : a ≤ x
  · by_cases hy : x < a + bs.length
    · have : x - a < bs.length := by omega
      simp [hx, hy, this, show ¬ x < a by omega, show ¬ a + bs.length ≤ x by omega]
    · have : bs.length ≤ x - a := by omega
      simp [hx, hy, show ¬ x < a by omega, show a + bs.length ≤ x by omega, List.getElem?_eq_none this]
  · simp [hx, show x < a by omega, show ¬ a + bs.length ≤ x by omega]

theorem cellsFrom_bounds (bs : List Byte) (a : Nat) (c : Host.Cell) (h : c ∈ cellsFrom a bs) :
    a ≤ c.1 ∧ c.1 < a + bs.length := by
  induction bs generalizing a with
  | nil => simp [cellsFrom] at h
  | cons b r ih =>
    simp only [cellsFrom, List.mem_cons] at h
    rcases h with rfl | h
    · simp
    · have := ih _ h
      simp only [List.length_cons]; omega

theorem wf_cellsFrom (bs : List Byte) (a : Nat) : Memory.wf (cellsFrom a bs) := by
  induction bs generalizing a with
  | nil => simp [Memory.wf, cellsFrom]
  | cons b r ih =>
    simp only [Memory.wf, cellsFrom, List.pairwise_cons]
    refine ⟨fun c hc => ?_, ih (a + 1)⟩
    have := cellsFrom_bounds r (a + 1) c hc
    omega

/-- A store keeps the canonical form. -/
theorem Memory.wf_store (m : Memory) (a : Nat) (bs : List Byte) (h : m.wf) : (m.store a bs).wf := by
  unfold Memory.store Memory.wf
  rw [List.pairwise_append, List.pairwise_append]
  refine ⟨⟨h.filter _, wf_cellsFrom bs a, ?_⟩, h.filter _, ?_⟩
  · intro c hc d hd
    have := cellsFrom_bounds bs a d hd
    simp only [List.mem_filter, decide_eq_true_eq] at hc
    omega
  · intro c hc d hd
    simp only [List.mem_filter, decide_eq_true_eq] at hd
    simp only [List.mem_append, List.mem_filter, decide_eq_true_eq] at hc
    rcases hc with hc | hc
    · omega
    · have := cellsFrom_bounds bs a c hc
      omega

/-! ### Words -/

theorem flatMap_wordBytes_length (ws : List Word) : (ws.flatMap wordBytes).length = 4 * ws.length := by
  induction ws with
  | nil => rfl
  | cons w r ih => simp only [List.flatMap_cons, List.length_append, wordBytes_length, ih, List.length_cons]; omega

theorem flatMap_wordBytes_get (ws : List Word) (k r : Nat) (hr : r < 4) :
    (ws.flatMap wordBytes)[4 * k + r]? = (ws[k]?).bind (fun w => (wordBytes w)[r]?) := by
  induction ws generalizing k with
  | nil => simp
  | cons w t ih =>
    rw [List.flatMap_cons]
    cases k with
    | zero =>
      rw [List.getElem?_append_left (by rw [wordBytes_length]; omega)]
      simp
    | succ n =>
      rw [List.getElem?_append_right (by rw [wordBytes_length]; omega), wordBytes_length,
        show 4 * (n + 1) + r - 4 = 4 * n + r by omega, ih]
      simp

/-- The canonical form is kept by a store of words. -/
theorem Memory.wf_storeWords (m : Memory) (i : Nat) (ws : List Word) (h : m.wf) : (m.storeWords i ws).wf :=
  m.wf_store _ _ h

/-- A byte outside the stored words is unchanged. -/
theorem Memory.get_storeWords_of_ne (m : Memory) (i : Nat) (ws : List Word) (x : Nat)
    (h : x < 4 * i ∨ 4 * (i + ws.length) ≤ x) : (m.storeWords i ws).get x = m.get x := by
  unfold Memory.storeWords
  rw [Memory.get_store, flatMap_wordBytes_length, if_neg (by omega)]

/-- A word after a store of words. -/
theorem Memory.word_storeWords (m : Memory) (i : Nat) (ws : List Word) (j : Nat) :
    (m.storeWords i ws).word j = if i ≤ j ∧ j < i + ws.length then ws[j - i]? else m.word j := by
  unfold Memory.word
  by_cases h : i ≤ j ∧ j < i + ws.length
  · have e : ∀ r, r < 4 → (m.storeWords i ws).get (4 * j + r) = (ws[j - i]?).bind (fun w => (wordBytes w)[r]?) := by
      intro r hr
      unfold Memory.storeWords
      rw [Memory.get_store, flatMap_wordBytes_length, if_pos (by omega),
        show 4 * j + r - 4 * i = 4 * (j - i) + r by omega, flatMap_wordBytes_get _ _ _ hr]
    have hlt : j - i < ws.length := by omega
    have e0 := e 0 (by omega)
    rw [Nat.add_zero] at e0
    rw [e0, e 1 (by omega), e 2 (by omega), e 3 (by omega), if_pos h, List.getElem?_eq_getElem hlt]
    simp only [Option.bind_some]
    exact congrArg some (bytesWord_wordBytes ws[j - i])
  · rw [if_neg h]
    have e : ∀ r, r < 4 → (m.storeWords i ws).get (4 * j + r) = m.get (4 * j + r) := by
      intro r hr
      exact Memory.get_storeWords_of_ne _ _ _ _ (by omega)
    have e0 := e 0 (by omega)
    rw [Nat.add_zero] at e0
    rw [e0, e 1 (by omega), e 2 (by omega), e 3 (by omega)]

/-! ### The internal memories -/

@[simp] theorem Mems.get_set_self (ms : Mems) (id : MemId) (m : Memory) : (ms.set id m).get id = m := by
  cases id <;> rfl

theorem Mems.get_set_of_ne (ms : Mems) (id j : MemId) (m : Memory) (h : j ≠ id) : (ms.set id m).get j = ms.get j := by
  cases id <;> cases j <;> first | rfl | exact absurd rfl h

theorem Mems.get_set (ms : Mems) (id j : MemId) (m : Memory) :
    (ms.set id m).get j = if j = id then m else ms.get j := by
  by_cases h : j = id
  · subst h; simp
  · rw [if_neg h, Mems.get_set_of_ne _ _ _ _ h]

@[simp] theorem Mems.get_reset (id : MemId) : Mems.reset.get id = [] := by cases id <;> rfl

/-- A byte after a write of words. -/
theorem State.byte_writeWords (s : State) (id j : MemId) (i : Nat) (ws : List Word) (x : Nat)
    (h : j ≠ id ∨ x < 4 * i ∨ 4 * (i + ws.length) ≤ x) : (s.writeWords id i ws).byte j x = s.byte j x := by
  unfold State.byte
  rw [writeWords_mem, Mems.get_set]
  split
  · rename_i e
    subst e
    exact Memory.get_storeWords_of_ne _ _ _ _ (by rcases h with h | h; exact absurd rfl h; exact h)
  · rfl

/-- A word after a write of words. -/
theorem State.readWord_writeWords (s : State) (id j : MemId) (i k : Nat) (ws : List Word) :
    (s.writeWords id i ws).readWord j k =
      if j = id ∧ i ≤ k ∧ k < i + ws.length then ws.getD (k - i) 0#32 else s.readWord j k := by
  unfold State.readWord
  rw [writeWords_mem, Mems.get_set, writeWords_free]
  by_cases hj : j = id
  · subst hj
    rw [if_pos rfl, Memory.word_storeWords]
    by_cases h : i ≤ k ∧ k < i + ws.length
    · have hlt : k - i < ws.length := by omega
      simp [h, List.getElem?_eq_getElem hlt]
    · simp [h]
  · simp [hj]

theorem State.readWord_writeWords_of_ne (s : State) (id j : MemId) (i k : Nat) (ws : List Word) (h : j ≠ id) :
    (s.writeWords id i ws).readWord j k = s.readWord j k := by
  rw [State.readWord_writeWords, if_neg (fun e => h e.1)]

theorem flatMap_words_length (cs : List Cx) : (cs.flatMap Cx.words).length = 2 * cs.length := by
  induction cs with
  | nil => rfl
  | cons c r ih => simp only [List.flatMap_cons, List.length_append, Cx.words, ih, List.length_cons, List.length_nil]; omega

theorem flatMap_words_get (cs : List Cx) (k : Nat) :
    (cs.flatMap Cx.words)[2 * k]? = (cs[k]?).map Cx.re ∧ (cs.flatMap Cx.words)[2 * k + 1]? = (cs[k]?).map Cx.im := by
  induction cs generalizing k with
  | nil => simp
  | cons c r ih =>
    cases k with
    | zero => simp [Cx.words]
    | succ n =>
      have h := ih n
      simp only [List.flatMap_cons, Cx.words, List.getElem?_cons_succ] at h ⊢
      rw [show 2 * (n + 1) = 2 * n + 2 by omega]
      simpa using h

theorem State.writeCxs_eq (s : State) (id : MemId) (i : Nat) (cs : List Cx) :
    s.writeCxs id i cs = s.writeWords id (2 * i) (cs.flatMap Cx.words) := rfl

/-- A complex entry after a write of complex entries. -/
theorem State.readCx_writeCxs (s : State) (id j : MemId) (i k : Nat) (cs : List Cx) :
    (s.writeCxs id i cs).readCx j k =
      if j = id ∧ i ≤ k ∧ k < i + cs.length then cs.getD (k - i) czero else s.readCx j k := by
  unfold State.readCx
  rw [State.writeCxs_eq, State.readWord_writeWords, State.readWord_writeWords, flatMap_words_length]
  by_cases h : j = id ∧ i ≤ k ∧ k < i + cs.length
  · have hlt : k - i < cs.length := by omega
    have hg := flatMap_words_get cs (k - i)
    rw [if_pos h, if_pos ⟨h.1, by omega, by omega⟩, if_pos ⟨h.1, by omega, by omega⟩, show 2 * k - 2 * i = 2 * (k - i) by omega,
      show 2 * k + 1 - 2 * i = 2 * (k - i) + 1 by omega, List.getD_eq_getElem?_getD, List.getD_eq_getElem?_getD,
      List.getD_eq_getElem?_getD, hg.1, hg.2, List.getElem?_eq_getElem hlt]
    rfl
  · rw [if_neg h, if_neg (fun e => h ⟨e.1, by omega, by omega⟩), if_neg (fun e => h ⟨e.1, by omega, by omega⟩)]

theorem State.byte_writeCxs (s : State) (id j : MemId) (i : Nat) (cs : List Cx) (x : Nat)
    (h : j ≠ id ∨ x < 8 * i ∨ 8 * (i + cs.length) ≤ x) : (s.writeCxs id i cs).byte j x = s.byte j x := by
  rw [State.writeCxs_eq]
  exact State.byte_writeWords _ _ _ _ _ _ (by
    rw [flatMap_words_length]
    rcases h with h | h
    · exact Or.inl h
    · exact Or.inr (by omega))

end Machine

end Sys2Proof
end

