-- ==== Sys2Proof/Laws/Ops.lean ====
section
/-! SUPPORT. What the shared operations can do: the dispatch sequence, the outcomes of a command, the stages of a long
command, and the canonical form under writes. -/

namespace Sys2Proof.Machine

/-! ### The dispatch sequence -/

/-- A command that passes the fault gate, the decoder and the state check runs its own rule. -/
theorem runCommand_run (i : Instr) (body : State → CmdEnd) (s : State) (hf : s.status.fault = false)
    (hw : i.wellFormed = true) (hl : legalIn i s.status.session = true) :
    runCommand i body s = finishCommand (encode i) s.beginCommand (body s.beginCommand) := by
  simp [runCommand, hf, hw, hl]

/-- The fault gate (rule R230 step 1). -/
theorem runCommand_gate (i : Instr) (body : State → CmdEnd) (s : State) (hf : s.status.fault = true)
    (hw : encode i ≠ sresetWord) : runCommand i body s = .next (s.beginCommand.endCommand rcFaulted) := by
  simp [runCommand, hf, hw]

/-- Illegal fields (rule R230 step 2). -/
theorem runCommand_illegal (i : Instr) (body : State → CmdEnd) (s : State) (hf : s.status.fault = false)
    (hw : i.wellFormed = false) :
    runCommand i body s = .next (s.beginCommand.commandFault .illegalCommand (encode i)) := by
  simp [runCommand, hf, hw]

/-- The state check (rule R230 step 3). -/
theorem runCommand_badState (i : Instr) (body : State → CmdEnd) (s : State) (hf : s.status.fault = false)
    (hw : i.wellFormed = true) (hl : legalIn i s.status.session = false) :
    runCommand i body s = .next (s.beginCommand.commandFault .badState (encode i)) := by
  simp [runCommand, hf, hw, hl]

@[simp] theorem finishCommand_ret (w code : Word) (t u : State) :
    finishCommand w t (.ret code u) = .next (u.endCommand code) := rfl
@[simp] theorem finishCommand_raise (w : Word) (t : State) (c : Cause) :
    finishCommand w t (.raise c) = .next (t.commandFault c w) := rfl
@[simp] theorem finishCommand_abandoned (w : Word) (t u : State) : finishCommand w t (.abandoned u) = .next u := rfl
@[simp] theorem finishCommand_stop (w : Word) (t : State) (f : Fault) : finishCommand w t (.stop f) = .fault f := rfl

/-- Every state in which a command's own rule can end has the property. -/
def CmdEnd.All (P : State → Prop) : CmdEnd → Prop
  | .ret _ u => P u
  | .raise _ => True
  | .abandoned u => P u
  | .stop _ => True

/-- Every state in which a stage can end has the property. -/
def Flow.All {α : Type} (P : State → Prop) : Flow α → Prop
  | .done _ u => P u
  | .eos u => P u
  | .reset u => P u
  | .stop _ => True

theorem Flow.All.bind {α β : Type} {P : State → Prop} {x : Flow α} {k : α → State → Flow β} (hx : x.All P)
    (hk : ∀ a u, P u → (k a u).All P) : (x.bind k).All P := by
  cases x with
  | done a u => exact hk a u hx
  | eos u => exact hx
  | reset u => exact hx
  | stop f => trivial

theorem Flow.All.finish {α : Type} {P : State → Prop} {x : Flow α} {k : α → State → CmdEnd} (hx : x.All P)
    (hk : ∀ a u, P u → (k a u).All P) : (x.finish k).All P := by
  cases x with
  | done a u => exact hk a u hx
  | eos u => exact hx
  | reset u => exact hx
  | stop f => trivial

theorem Flow.All.ofOption {α : Type} {P : State → Prop} {r : Option α × State} (h : P r.2) :
    (Flow.ofOption r).All P := by
  obtain ⟨a, s⟩ := r
  cases a <;> exact h

/-- A property that survives the beginning and the end of a command, a command fault, and the command's own rule
survives the command. -/
theorem runCommand_preserves (P : State → Prop) (i : Instr) (body : State → CmdEnd) (s t : State)
    (hend : ∀ u c, P u → P (u.endCommand c)) (hfault : ∀ u c w, P u → P (u.commandFault c w))
    (hbegin : P s.beginCommand)
    (hbody : legalIn i s.status.session = true → (body s.beginCommand).All P)
    (h : runCommand i body s = .next t) : P t := by
  unfold runCommand at h
  simp only at h
  split at h
  · cases h; exact hend _ _ hbegin
  · split at h
    · cases h; exact hfault _ _ _ hbegin
    · split at h
      · cases h; exact hfault _ _ _ hbegin
      · rename_i _ _ hl
        have hb := hbody (by simpa using hl)
        cases hc : body s.beginCommand with
        | ret code u => rw [hc] at h hb; cases h; exact hend _ _ hb
        | raise c => rw [hc] at h hb; cases h; exact hfault _ _ _ hbegin
        | abandoned u => rw [hc] at h hb; cases h; exact hb
        | stop f => rw [hc] at h; cases h

/-- The same for a word that is no command. -/
theorem runIllegal_preserves (P : State → Prop) (w : Word) (s t : State)
    (hend : ∀ u c, P u → P (u.endCommand c)) (hfault : ∀ u c w, P u → P (u.commandFault c w))
    (hbegin : P s.beginCommand) (h : runIllegal w s = .next t) : P t := by
  unfold runIllegal at h
  simp only at h
  split at h
  · cases h; exact hend _ _ hbegin
  · cases h; exact hfault _ _ _ hbegin

/-! ### The canonical form -/

theorem Mems.wf_iff (ms : Mems) : ms.wf ↔ ∀ id, (ms.get id).wf := by
  constructor
  · rintro ⟨h1, h2, h3, h4, h5, h6, h7, h8, h9, h10, h11, h12, h13, h14, h15, h16, h17⟩ id
    cases id <;> assumption
  · intro h
    exact ⟨h .hdr, h .xn, h .x, h .z, h .cx, h .fm, h .tw, h .wrom, h .coef, h .bufs, h .dcbuf, h .iqbuf, h .lpiq,
      h .lpfm, h .decbuf, h .matchT, h .rot⟩

theorem Mems.wf_set (ms : Mems) (id : MemId) (m : Memory) (h : ms.wf) (hm : m.wf) : (ms.set id m).wf := by
  rw [Mems.wf_iff] at h ⊢
  intro j
  rw [Mems.get_set]
  split
  · exact hm
  · exact h j

/-- A write of words keeps every memory in canonical form. -/
theorem State.wf_writeWords (s : State) (id : MemId) (i : Nat) (ws : List Word) (h : s.mem.wf) :
    (s.writeWords id i ws).mem.wf := by
  rw [writeWords_mem]
  exact Mems.wf_set _ _ _ h (Memory.wf_storeWords _ _ _ ((Mems.wf_iff _).1 h id))

/-- A write of complex entries keeps every memory in canonical form. -/
theorem State.wf_writeCxs (s : State) (id : MemId) (i : Nat) (cs : List Cx) (h : s.mem.wf) :
    (s.writeCxs id i cs).mem.wf := State.wf_writeWords _ _ _ _ h

theorem State.wf_appendSample (s : State) (n v : Word) (h : s.mem.wf) : (s.appendSample n v).mem.wf := by
  rw [appendSample_mem]
  exact Mems.wf_set _ _ _ h (Memory.wf_storeWords _ _ _ ((Mems.wf_iff _).1 h .bufs))

end Sys2Proof.Machine
end

