-- ==== Sys2Proof/Laws/Sample.lean ====
section
/-! SUPPORT. What a sample step can do: which state it leaves alone, its two counters, and the canonical form of the
memories. -/

namespace Sys2Proof.Machine

/-! ### Which fields change -/

/-- `t` differs from `s` in the run-time registers and the memories at most. -/
def OnlyRunMem (s t : State) : Prop := t = { s with run := t.run, mem := t.mem }

/-- `t` differs from `s` at most in what a sample step writes: run-time registers, memories, STATUS, the SOURCE's
position. -/
def OnlySample (s t : State) : Prop :=
  t = { s with run := t.run, mem := t.mem, status := t.status, srcPos := t.srcPos }

theorem OnlyRunMem.refl (s : State) : OnlyRunMem s s := rfl
theorem OnlySample.refl (s : State) : OnlySample s s := rfl

theorem OnlyRunMem.trans {s t u : State} (h : OnlyRunMem s t) (k : OnlyRunMem t u) : OnlyRunMem s u := by
  unfold OnlyRunMem at *; rw [k, h]

theorem OnlySample.trans {s t u : State} (h : OnlySample s t) (k : OnlySample t u) : OnlySample s u := by
  unfold OnlySample at *; rw [k, h]

theorem OnlyRunMem.sample {s t : State} (h : OnlyRunMem s t) : OnlySample s t := by
  unfold OnlyRunMem OnlySample at *; rw [h]

theorem OnlyRunMem.status {s t : State} (h : OnlyRunMem s t) : t.status = s.status := by rw [h]
theorem OnlyRunMem.srcPos {s t : State} (h : OnlyRunMem s t) : t.srcPos = s.srcPos := by rw [h]
theorem OnlyRunMem.inst {s t : State} (h : OnlyRunMem s t) : t.inst = s.inst := by rw [h]
theorem OnlyRunMem.cfg {s t : State} (h : OnlyRunMem s t) : t.cfg = s.cfg := by rw [h]
theorem OnlyRunMem.size {s t : State} (h : OnlyRunMem s t) : t.size = s.size := by rw [h]

theorem OnlySample.inst {s t : State} (h : OnlySample s t) : t.inst = s.inst := by rw [h]
theorem OnlySample.active {s t : State} (h : OnlySample s t) : t.active = s.active := by rw [h]
theorem OnlySample.result {s t : State} (h : OnlySample s t) : t.result = s.result := by rw [h]
theorem OnlySample.fcause {s t : State} (h : OnlySample s t) : t.fcause = s.fcause := by rw [h]
theorem OnlySample.finfo {s t : State} (h : OnlySample s t) : t.finfo = s.finfo := by rw [h]
theorem OnlySample.arg {s t : State} (h : OnlySample s t) : t.arg = s.arg := by rw [h]
theorem OnlySample.latch {s t : State} (h : OnlySample s t) : t.latch = s.latch := by rw [h]
theorem OnlySample.res {s t : State} (h : OnlySample s t) : t.res = s.res := by rw [h]
theorem OnlySample.cfg {s t : State} (h : OnlySample s t) : t.cfg = s.cfg := by rw [h]
theorem OnlySample.size {s t : State} (h : OnlySample s t) : t.size = s.size := by rw [h]
theorem OnlySample.source {s t : State} (h : OnlySample s t) : t.source = s.source := by rw [h]
theorem OnlySample.host {s t : State} (h : OnlySample s t) : t.host = s.host := by rw [h]
theorem OnlySample.during {s t : State} (h : OnlySample s t) : t.during = s.during := by rw [h]
theorem OnlySample.hostReads {s t : State} (h : OnlySample s t) : t.hostReads = s.hostReads := by rw [h]
theorem OnlySample.free {s t : State} (h : OnlySample s t) : t.free = s.free := by rw [h]

/-! ### The run-time registers a sample step keeps -/

theorem SampleKept.refl (s : State) : SampleKept s s := ⟨rfl, rfl, rfl, rfl, rfl, rfl, rfl, rfl, rfl, rfl⟩

theorem SampleKept.trans {s t u : State} (h : SampleKept s t) (k : SampleKept t u) : SampleKept s u :=
  ⟨k.mv.trans h.mv, k.mvPos.trans h.mvPos, k.dc.trans h.dc, k.df.trans h.df, k.ddf.trans h.ddf,
    k.buffered.trans h.buffered, k.sc.trans h.sc, k.bg.trans h.bg, k.nosig.trans h.nosig, k.kcnt.trans h.kcnt⟩

/-- The two counters are left alone as well. -/
structure CountersKept (s t : State) : Prop where
  sampleIn : t.run.sampleIn = s.run.sampleIn
  sampleOut : t.run.sampleOut = s.run.sampleOut

theorem CountersKept.refl (s : State) : CountersKept s s := ⟨rfl, rfl⟩

theorem CountersKept.trans {s t u : State} (h : CountersKept s t) (k : CountersKept t u) : CountersKept s u :=
  ⟨k.sampleIn.trans h.sampleIn, k.sampleOut.trans h.sampleOut⟩

/-- What every stage of a sample step before the last guarantees. -/
structure StageSpec (s t : State) : Prop where
  only : OnlyRunMem s t
  kept : SampleKept s t
  counters : CountersKept s t
  wf : s.mem.wf → t.mem.wf

theorem StageSpec.refl (s : State) : StageSpec s s :=
  ⟨OnlyRunMem.refl s, SampleKept.refl s, CountersKept.refl s, fun h => h⟩

theorem StageSpec.trans {s t u : State} (h : StageSpec s t) (k : StageSpec t u) : StageSpec s u :=
  ⟨h.only.trans k.only, h.kept.trans k.kept, h.counters.trans k.counters, fun w => k.wf (h.wf w)⟩

theorem StageSpec.writeWords (s : State) (id : MemId) (i : Nat) (ws : List Word) :
    StageSpec s (s.writeWords id i ws) :=
  ⟨rfl, by constructor <;> rfl, by constructor <;> rfl, fun h => State.wf_writeWords _ _ _ _ h⟩

theorem StageSpec.writeCxs (s : State) (id : MemId) (i : Nat) (cs : List Cx) : StageSpec s (s.writeCxs id i cs) :=
  StageSpec.writeWords _ _ _ _

/-! ### The stages -/

/-- Pull (rule R141): frames and a later position, or EOS. -/
theorem pull_cases (n : Nat) (s : State) :
    (∃ fs, pull n s = (some fs, { s with srcPos := s.srcPos + n }) ∧ fs.length = n ∧ s.status.eos = false)
      ∨ (pull n s = (none, s) ∧ s.status.eos = true)
      ∨ (pull n s = (none, { s with srcPos := s.source.frames.length }.setEos) ∧ s.status.eos = false) := by
  unfold pull
  split
  · rename_i h; exact .inr (.inl ⟨rfl, h⟩)
  · rename_i h
    have he : s.status.eos = false := by simpa using h
    split
    · exact .inl ⟨_, rfl, by simp, he⟩
    · exact .inr (.inr ⟨rfl, he⟩)

/-- Pull(1): a frame, or EOS. -/
theorem pullOne_cases (s : State) :
    (∃ f, pullOne s = (some f, { s with srcPos := s.srcPos + 1 }) ∧ s.status.eos = false)
      ∨ (pullOne s = (none, s) ∧ s.status.eos = true)
      ∨ (pullOne s = (none, { s with srcPos := s.source.frames.length }.setEos) ∧ s.status.eos = false) := by
  rcases pull_cases 1 s with ⟨fs, h, hl, he⟩ | ⟨h, he⟩ | ⟨h, he⟩
  · obtain ⟨f, rfl⟩ := List.length_eq_one_iff.1 hl
    exact .inl ⟨f, by simp [pullOne, h], he⟩
  · exact .inr (.inl ⟨by simp [pullOne, h], he⟩)
  · exact .inr (.inr ⟨by simp [pullOne, h], he⟩)

theorem iqdcUpdate_spec (s : State) (x y : Word) : StageSpec s (s.iqdcUpdate x y) := by
  unfold State.iqdcUpdate
  simp only
  split
  · exact ⟨rfl, by constructor <;> rfl, by constructor <;> rfl, fun h => h⟩
  · exact ⟨rfl, by constructor <;> rfl, by constructor <;> rfl, fun h => h⟩

theorem readComplex_spec (s : State) (f : Frame) : StageSpec s (s.readComplex f).2 := iqdcUpdate_spec _ _ _

theorem rotateIn_spec (s : State) (f : Frame) : StageSpec s (s.rotateIn f) := by
  have h := (readComplex_spec s f).trans (StageSpec.writeCxs (s.readComplex f).2 .decbuf
    ((s.readComplex f).2.run.sdec.toNat % s.size.taps0.toNat)
    [cmul (s.readComplex f).1 ((s.readComplex f).2.readCx .rot
      ((s.readComplex f).2.run.sdec.toNat % s.size.rotLen.toNat))])
  exact ⟨h.only.trans rfl, h.kept.trans (by constructor <;> rfl), h.counters.trans (by constructor <;> rfl), h.wf⟩

theorem foldl_rotateIn_spec (fs : List Frame) (s : State) : StageSpec s (fs.foldl State.rotateIn s) := by
  induction fs generalizing s with
  | nil => exact StageSpec.refl s
  | cons f r ih => exact (rotateIn_spec s f).trans (ih _)

theorem ifStage_spec (s : State) (z : Cx) : StageSpec s (s.ifStage z).2 := by
  unfold State.ifStage
  split
  · have h := StageSpec.writeCxs s .lpiq s.run.lpiqWp.toNat [z]
    exact ⟨h.only.trans rfl, h.kept.trans (by constructor <;> rfl), h.counters.trans (by constructor <;> rfl), h.wf⟩
  · exact StageSpec.refl s

theorem fmStage_spec (s : State) (v : Word) : StageSpec s (s.fmStage v).2 := by
  unfold State.fmStage
  split
  · have h := StageSpec.writeWords s .lpfm s.run.lpfmWp.toNat [v]
    exact ⟨h.only.trans rfl, h.kept.trans (by constructor <;> rfl), h.counters.trans (by constructor <;> rfl), h.wf⟩
  · exact StageSpec.refl s

theorem iqStages_spec (s : State) (n : Word) (z : Cx) : StageSpec s (s.iqStages n z).2 := by
  unfold State.iqStages
  exact (((ifStage_spec s (s.derotated n z)).trans (StageSpec.writeCxs _ .iqbuf _ [_])).trans
    (StageSpec.writeWords _ .dcbuf _ [_])).trans (fmStage_spec _ _)

/-- What EOS does to the state: nothing but STATUS and the SOURCE's position. -/
structure EosSpec (s t : State) : Prop where
  eq : t = { s with status := t.status, srcPos := t.srcPos }
  status : t.status = { s.status with eos := true, session := .ended } ∨ (t = s ∧ s.status.eos = true)

theorem EosSpec.sample {s t : State} (h : EosSpec s t) : OnlySample s t := by
  have := h.eq; unfold OnlySample; rw [this]

theorem EosSpec.run {s t : State} (h : EosSpec s t) : t.run = s.run := by rw [h.eq]
theorem EosSpec.mem {s t : State} (h : EosSpec s t) : t.mem = s.mem := by rw [h.eq]

theorem pull_none {n : Nat} {s t : State} (h : pull n s = (none, t)) : EosSpec s t := by
  rcases pull_cases n s with ⟨fs, h', _, _⟩ | ⟨h', he⟩ | ⟨h', he⟩
  · rw [h'] at h; cases h
  · rw [h'] at h; cases h; exact ⟨rfl, .inr ⟨rfl, he⟩⟩
  · rw [h'] at h; cases h; exact ⟨rfl, .inl rfl⟩

theorem pull_some {n : Nat} {s t : State} {fs : List Frame} (h : pull n s = (some fs, t)) :
    t = { s with srcPos := s.srcPos + n } ∧ fs.length = n ∧ s.status.eos = false := by
  rcases pull_cases n s with ⟨gs, h', hl, he⟩ | ⟨h', he⟩ | ⟨h', he⟩
  · rw [h'] at h; cases h; exact ⟨rfl, hl, he⟩
  · rw [h'] at h; cases h
  · rw [h'] at h; cases h

theorem pullOne_none {s t : State} (h : pullOne s = (none, t)) : EosSpec s t := by
  rcases pullOne_cases s with ⟨fs, h', _⟩ | ⟨h', he⟩ | ⟨h', he⟩
  · rw [h'] at h; cases h
  · rw [h'] at h; cases h; exact ⟨rfl, .inr ⟨rfl, he⟩⟩
  · rw [h'] at h; cases h; exact ⟨rfl, .inl rfl⟩

theorem pullOne_some {s t : State} {f : Frame} (h : pullOne s = (some f, t)) :
    t = { s with srcPos := s.srcPos + 1 } ∧ s.status.eos = false := by
  rcases pullOne_cases s with ⟨g, h', he⟩ | ⟨h', he⟩ | ⟨h', he⟩
  · rw [h'] at h; cases h; exact ⟨rfl, he⟩
  · rw [h'] at h; cases h
  · rw [h'] at h; cases h

/-- `Acquire()` that yields EOS. -/
theorem acquire_none {s t : State} (h : acquire s = (none, t)) : EosSpec s t := by
  unfold acquire at h
  split at h
  · unfold acquireDecim at h
    split at h
    · rename_i u hp; cases h; exact pull_none hp
    · cases h
  · split at h
    · cases h
    · rename_i u hp; cases h; exact pullOne_none hp

/-- `Acquire()` that yields a sample: the SOURCE moved on, then stages. -/
theorem acquire_some {s t : State} {z : Cx} (h : acquire s = (some z, t)) :
    s.status.eos = false ∧ ∃ n, StageSpec { s with srcPos := s.srcPos + n } t := by
  unfold acquire at h
  split at h
  · unfold acquireDecim at h
    split at h
    · cases h
    · rename_i u hp
      obtain ⟨rfl, _, he⟩ := pull_some hp
      cases h
      exact ⟨he, _, foldl_rotateIn_spec _ _⟩
  · split at h
    · rename_i u hp
      obtain ⟨rfl, he⟩ := pullOne_some hp
      cases h
      exact ⟨he, _, readComplex_spec _ _⟩
    · cases h

/-! ### The sample step -/

/-- A sample step that yields EOS (rules R141, R160). -/
theorem demodStep_none {s t : State} (h : demodStep s = (none, t)) : EosSpec s t := by
  unfold demodStep at h
  simp only at h
  split at h
  · split at h
    · rename_i u hp; cases h; exact acquire_none hp
    · cases h
  · split at h
    · rename_i u hp; cases h; exact pullOne_none hp
    · cases h

/-- What a completed sample step guarantees (rules R160, R171). -/
structure SampleSpec (s t : State) : Prop where
  only : OnlySample s t
  status : t.status = s.status
  kept : SampleKept s t
  sampleIn : t.run.sampleIn = s.run.sampleIn + 1#32
  sampleOut : t.run.sampleOut = s.run.sampleIn - s.cfg.delay
  wf : s.mem.wf → t.mem.wf

theorem appendSample_spec {s t : State} {k : Nat} (h : StageSpec { s with srcPos := s.srcPos + k } t) (v : Word) :
    SampleSpec s (t.appendSample s.run.sampleIn v) := by
  have hs : OnlySample s t := OnlySample.trans (t := { s with srcPos := s.srcPos + k }) rfl h.only.sample
  refine ⟨hs.trans rfl, h.only.status, ⟨h.kept.mv, h.kept.mvPos, h.kept.dc, h.kept.df,
    h.kept.ddf, h.kept.buffered, h.kept.sc, h.kept.bg, h.kept.nosig, h.kept.kcnt⟩, rfl, ?_, ?_⟩
  · show s.run.sampleIn - t.cfg.delay = _
    rw [hs.cfg]
  · exact fun w => State.wf_appendSample _ _ _ (h.wf w)

/-- A completed sample step (rules R160, R171). -/
theorem demodStep_some {s t : State} {v : Word} (h : demodStep s = (some v, t)) : SampleSpec s t := by
  unfold demodStep at h
  simp only at h
  split at h
  · split at h
    · cases h
    · rename_i z u hp
      obtain ⟨_, k, hk⟩ := acquire_some hp
      cases h
      exact appendSample_spec (hk.trans (iqStages_spec _ _ _)) _
  · split at h
    · cases h
    · rename_i f u hp
      obtain ⟨rfl, _⟩ := pullOne_some hp
      cases h
      exact appendSample_spec (k := 1) (StageSpec.refl _) _

theorem demodStep_wf (s : State) (h : s.mem.wf) : (demodStep s).2.mem.wf := by
  cases e : demodStep s with
  | mk r t =>
    cases r with
    | none => rw [(demodStep_none e).mem]; exact h
    | some v => exact (demodStep_some e).wf h

theorem demodStep_only (s : State) : OnlySample s (demodStep s).2 := by
  cases e : demodStep s with
  | mk r t =>
    cases r with
    | none => exact (demodStep_none e).sample
    | some v => exact (demodStep_some e).only

theorem demodStep_kept (s : State) : SampleKept s (demodStep s).2 := by
  cases e : demodStep s with
  | mk r t =>
    cases r with
    | none => have h := (demodStep_none e).run; constructor <;> simp only [h]
    | some v => exact (demodStep_some e).kept

end Sys2Proof.Machine
end

