-- ==== Sys2Proof/Laws/Correlator.lean ====
section
/-! SUPPORT. What the correlator, the search loop and the HOST's accesses can do. -/

namespace Sys2Proof.Machine

/-! ### The correlation pass and step -/

/-- `t` differs from `s` in the memories at most, and keeps their canonical form. -/
structure MemSpec (s t : State) : Prop where
  eq : t = { s with mem := t.mem }
  wf : s.mem.wf → t.mem.wf

theorem MemSpec.refl (s : State) : MemSpec s s := ⟨rfl, fun h => h⟩

theorem MemSpec.trans {s t u : State} (h : MemSpec s t) (k : MemSpec t u) : MemSpec s u :=
  ⟨by rw [k.eq, h.eq], fun w => k.wf (h.wf w)⟩

theorem MemSpec.writeWords (s : State) (id : MemId) (i : Nat) (ws : List Word) : MemSpec s (s.writeWords id i ws) :=
  ⟨rfl, fun h => State.wf_writeWords _ _ _ _ h⟩

theorem MemSpec.writeCxs (s : State) (id : MemId) (i : Nat) (cs : List Cx) : MemSpec s (s.writeCxs id i cs) :=
  MemSpec.writeWords _ _ _ _

theorem MemSpec.run {s t : State} (h : MemSpec s t) : t.run = s.run := by rw [h.eq]
theorem MemSpec.status {s t : State} (h : MemSpec s t) : t.status = s.status := by rw [h.eq]
theorem MemSpec.cfg {s t : State} (h : MemSpec s t) : t.cfg = s.cfg := by rw [h.eq]
theorem MemSpec.size {s t : State} (h : MemSpec s t) : t.size = s.size := by rw [h.eq]
theorem MemSpec.inst {s t : State} (h : MemSpec s t) : t.inst = s.inst := by rw [h.eq]
theorem MemSpec.free {s t : State} (h : MemSpec s t) : t.free = s.free := by rw [h.eq]

theorem extract_spec (s : State) (buf : MemId) : MemSpec s (s.extract buf) :=
  (MemSpec.writeWords _ _ _ _).trans (MemSpec.writeCxs _ _ _ _)

theorem removeDc_spec (s : State) : MemSpec s s.removeDc :=
  ((MemSpec.writeCxs s .x 0 [czero]).trans (MemSpec.writeCxs _ _ _ _)).trans (MemSpec.writeWords _ _ _ _)

theorem correlate_spec (s : State) : MemSpec s s.correlate :=
  (MemSpec.writeCxs s .z 0 _).trans (MemSpec.writeCxs _ _ _ _)

/-- A pass writes XN, X, Z, CX and nothing else (rule R185). -/
theorem corrPass_spec (s : State) (buf : MemId) (dcz : Bool) : MemSpec s (s.corrPass buf dcz).2 := by
  unfold State.corrPass
  have h := extract_spec s buf
  cases dcz
  · exact h.trans (correlate_spec _)
  · exact (h.trans (removeDc_spec _)).trans (correlate_spec _)

theorem bestPass_spec (s : State) (thres : Word) : MemSpec s (s.bestPass thres).2.2 := by
  unfold State.bestPass
  have h := corrPass_spec s .bufs s.cfg.corrDcz
  dsimp only
  split
  · split
    · exact h.trans (corrPass_spec _ _ _)
    · exact h.trans (corrPass_spec _ _ _)
  · exact h

theorem MemSpec.exists {s t : State} (h : MemSpec s t) : ∃ m, t = { s with mem := m } := ⟨_, h.eq⟩

theorem recordPeak_eq (s : State) (r : PassResult) :
    ∃ mv mvPos b, s.recordPeak r = { s with run := { s.run with mv := mv, mvPos := mvPos, buffered := b } } := by
  cases r <;> exact ⟨_, _, _, rfl⟩

/-- A correlation step writes MV, MV_POS, DC, DDF, BUFFERED and the memories XN, X, Z, CX (rules R186, R194). -/
theorem corrStep_eq (s : State) (thres : Word) :
    ∃ m mv mvPos dc ddf b, (s.corrStep thres).2 = { s with
      mem := m
      run := { s.run with mv := mv, mvPos := mvPos, dc := dc, ddf := ddf, buffered := b } } := by
  obtain ⟨m, h⟩ := (bestPass_spec s thres).exists
  unfold State.corrStep
  dsimp only
  rw [h]
  obtain ⟨mv, mvPos, b, k⟩ := recordPeak_eq (State.recordDc { s with mem := m } (s.bestPass thres).1.dc)
    (s.bestPass thres).1
  exact ⟨m, mv, mvPos, _, _, b, k⟩

theorem corrStep_wf (s : State) (thres : Word) (h : s.mem.wf) : (s.corrStep thres).2.mem.wf := by
  have k := (bestPass_spec s thres).wf h
  unfold State.corrStep
  dsimp only
  obtain ⟨mv, mvPos, b, e⟩ := recordPeak_eq ((s.bestPass thres).2.2.recordDc (s.bestPass thres).1.dc)
    (s.bestPass thres).1
  rw [e]
  exact k

/-! ### The carrier loop and the candidate -/

theorem lockUpdate_eq (s : State) : ∃ l, s.lockUpdate = s.setLocked l := by
  unfold State.lockUpdate
  dsimp only
  split
  · exact ⟨_, rfl⟩
  · split
    · exact ⟨_, rfl⟩
    · exact ⟨s.status.locked, rfl⟩

/-- The carrier loop writes DF and LOCKED (rules R169, R170). -/
theorem carrierUpdate_eq (s : State) :
    ∃ l, s.carrierUpdate = { s with
      run := { s.run with df := fadd s.run.df (fmul s.cfg.loopg s.run.ddf) }
      status := { s.status with locked := l } } := by
  obtain ⟨l, h⟩ := lockUpdate_eq { s with run := { s.run with df := fadd s.run.df (fmul s.cfg.loopg s.run.ddf) } }
  exact ⟨l, h⟩

theorem trackCarrier_eq (s : State) :
    ∃ df l, s.trackCarrier = { s with run := { s.run with df := df }, status := { s.status with locked := l } } := by
  unfold State.trackCarrier
  split
  · obtain ⟨l, h⟩ := carrierUpdate_eq s
    exact ⟨_, l, h⟩
  · exact ⟨s.run.df, s.status.locked, rfl⟩

/-- A candidate that is accepted (rule R202). -/
theorem candidate_true {s : State} {maxerr : Nat} (h : (s.candidate maxerr).1 = true) :
    ∃ df l errs, errs.toNat ≤ maxerr ∧ (s.candidate maxerr).2 = { s with
      run := { s.run with df := df, nosig := 0#32 }
      status := { s.status with locked := l, det := .headerVerified }
      res := { s.res with r0 := s.run.mvPos, r1 := s.run.mv, r2 := errs } } := by
  obtain ⟨df, l, e⟩ := trackCarrier_eq (s.setDet .peakFound)
  unfold State.candidate at *
  dsimp only at *
  split at h
  · rename_i hc
    rw [if_pos hc]
    refine ⟨df, l, _, hc, ?_⟩
    rw [e]
    rfl
  · cases h

/-- A candidate that is not accepted (rule R202). -/
theorem candidate_false {s : State} {maxerr : Nat} (h : (s.candidate maxerr).1 = false) :
    ∃ df l, (s.candidate maxerr).2 = { s with
      run := { s.run with df := df }
      status := { s.status with locked := l, det := .searching }
      free := s.free + 1 } := by
  obtain ⟨df, l, e⟩ := trackCarrier_eq (s.setDet .peakFound)
  unfold State.candidate at *
  dsimp only at *
  split at h
  · cases h
  · rename_i hc
    rw [if_neg hc]
    refine ⟨df, l, ?_⟩
    rw [e]
    rfl

/-- An iteration of the search that finds a header, after its sample step. -/
theorem afterSample_true {s : State} {thres : Word} {maxerr : Nat} (h : (s.afterSample thres maxerr).1 = true) :
    ∃ m mv mvPos dc ddf b df l errs, errs.toNat ≤ maxerr ∧ (s.afterSample thres maxerr).2 = { s with
      mem := m
      run := { s.run with
        mv := mv, mvPos := mvPos, dc := dc, ddf := ddf, buffered := b, df := df, nosig := 0#32, kcnt := 0#32 }
      status := { s.status with locked := l, det := .headerVerified }
      res := { s.res with r0 := mvPos, r1 := mv, r2 := errs } } := by
  unfold State.afterSample at *
  dsimp only at *
  split at h
  · rename_i hk
    rw [if_pos hk]
    unfold State.searchStep at *
    dsimp only at *
    split at h
    · rename_i hc
      rw [if_pos hc]
      obtain ⟨df, l, errs, he, e⟩ := candidate_true h
      obtain ⟨m, mv, mvPos, dc, ddf, b, k⟩ := corrStep_eq
        { s.countSample with run := { s.countSample.run with kcnt := 0#32 } } thres
      rw [k] at e
      refine ⟨m, mv, mvPos, dc, ddf, b, df, l, errs, he, ?_⟩
      rw [k, e]
      rfl
    · cases h
  · cases h

/-- An iteration of the search that goes on, after its sample step: one more sample is counted. -/
theorem afterSample_false {s : State} {thres : Word} {maxerr : Nat} (h : (s.afterSample thres maxerr).1 = false) :
    ∃ m mv mvPos dc ddf b df kcnt l d n, (s.afterSample thres maxerr).2 = { s with
      mem := m
      run := { s.run with
        mv := mv, mvPos := mvPos, dc := dc, ddf := ddf, buffered := b, df := df
        nosig := s.run.nosig + 1#32, kcnt := kcnt }
      status := { s.status with locked := l, det := d }
      free := n } := by
  unfold State.afterSample at *
  dsimp only at *
  split at h
  · rename_i hk
    rw [if_pos hk]
    unfold State.searchStep at *
    dsimp only at *
    obtain ⟨m, mv, mvPos, dc, ddf, b, k⟩ := corrStep_eq
      { s.countSample with run := { s.countSample.run with kcnt := 0#32 } } thres
    split at h
    · rename_i hc
      rw [if_pos hc]
      obtain ⟨df, l, e⟩ := candidate_false h
      rw [k] at e
      refine ⟨m, mv, mvPos, dc, ddf, b, df, 0#32, l, .searching, s.free + 1, ?_⟩
      rw [k, e]
      rfl
    · rename_i hc
      rw [if_neg hc]
      refine ⟨m, mv, mvPos, dc, ddf, b, s.run.df, 0#32, s.status.locked, s.status.det, s.free, ?_⟩
      rw [k]
      rfl
  · rename_i hk
    rw [if_neg hk]
    exact ⟨s.mem, s.run.mv, s.run.mvPos, s.run.dc, s.run.ddf, s.run.buffered, s.run.df, _, s.status.locked,
      s.status.det, s.free, rfl⟩

theorem candidate_wf (s : State) (maxerr : Nat) (h : s.mem.wf) : (s.candidate maxerr).2.mem.wf := by
  cases e : (s.candidate maxerr).1
  · obtain ⟨_, _, k⟩ := candidate_false e; rw [k]; exact h
  · obtain ⟨_, _, _, _, k⟩ := candidate_true e; rw [k]; exact h

theorem afterSample_wf (s : State) (thres : Word) (maxerr : Nat) (h : s.mem.wf) :
    (s.afterSample thres maxerr).2.mem.wf := by
  unfold State.afterSample
  dsimp only
  split
  · unfold State.searchStep
    dsimp only
    split
    · exact candidate_wf _ _ (corrStep_wf _ _ h)
    · exact corrStep_wf _ _ h
  · exact h

end Sys2Proof.Machine
end

