-- ==== Sys2Proof/Laws/Host.lean ====
section
/-! SUPPORT. What the HOST's accesses can do, idle and while a command runs. -/

namespace Sys2Proof.Machine

/-- What an access while a command runs can change (rule R74): CTRL.ACTIVE, the fault record, what reads have
returned. -/
def BusyAccess (s t : State) : Prop :=
  ∃ a f c i r n, t = { s with
    active := a, status := { s.status with fault := f }, fcause := c, finfo := i, hostReads := r, free := n }

theorem BusyAccess.refl (s : State) : BusyAccess s s :=
  ⟨s.active, s.status.fault, s.fcause, s.finfo, s.hostReads, s.free, rfl⟩

theorem BusyAccess.trans {s t u : State} (h : BusyAccess s t) (k : BusyAccess t u) : BusyAccess s u := by
  obtain ⟨a, f, c, i, r, n, rfl⟩ := h
  obtain ⟨a', f', c', i', r', n', rfl⟩ := k
  exact ⟨a', f', c', i', r', n', rfl⟩

theorem BusyAccess.busy {s t : State} (h : BusyAccess s t) : t.status.busy = s.status.busy := by
  obtain ⟨a, f, c, i, r, n, rfl⟩ := h; rfl

theorem hostFault_access (s : State) (off : Nat) : BusyAccess s (s.hostFault off) :=
  ⟨s.active, true, _, _, s.hostReads, s.free, rfl⟩

theorem busRead_access (s : State) (width addr : Nat) : BusyAccess s (s.busRead width addr) := by
  unfold State.busRead
  split
  · unfold State.hostRead
    split
    · exact ⟨s.active, true, _, _, _, _, rfl⟩
    · exact ⟨s.active, s.status.fault, s.fcause, s.finfo, _, _, rfl⟩
  · exact BusyAccess.refl s

theorem busWrite_access (s : State) (width addr : Nat) (v : Word) (hb : s.status.busy = true) :
    BusyAccess s (s.busWrite width addr v) := by
  unfold State.busWrite
  split
  · unfold State.hostWrite
    split
    · exact hostFault_access _ _
    · rename_i hf
      have ho : offsetOf addr = ctrlOffset := by
        unfold State.accessForbidden at hf
        simp only [hb, Bool.true_and, Bool.or_eq_true, not_or, Bool.not_eq_true'] at hf
        simpa using hf.2
      rw [ho]
      have hw : s.windowWrite ctrlOffset v = some { s with active := activeOf v } := rfl
      rw [hw]
      exact ⟨activeOf v, s.status.fault, s.fcause, s.finfo, s.hostReads, s.free, rfl⟩
  · exact BusyAccess.refl s

/-- What is left of the block when hardware reset abandons a command (rule R281). -/
def AfterReset (s t : State) : Prop :=
  ∃ r n h, t = { State.reset with
    inst := s.inst, source := s.source, srcPos := s.srcPos, host := h, during := s.during, hostReads := r, free := n }

/-- The HOST's events in one moment of a running command: accesses, or a hardware reset. -/
theorem duringEvents_cases (es : List HostEvent) (s : State) (hb : s.status.busy = true) :
    (∃ t, duringEvents es s = .done () t ∧ BusyAccess s t) ∨ (∃ t, duringEvents es s = .reset t ∧ AfterReset s t) := by
  induction es generalizing s with
  | nil => exact .inl ⟨s, rfl, BusyAccess.refl s⟩
  | cons e rest ih =>
    have step : ∀ u, BusyAccess s u →
        (∃ t, duringEvents rest u = .done () t ∧ BusyAccess s t)
          ∨ (∃ t, duringEvents rest u = .reset t ∧ AfterReset s t) := by
      intro u hu
      rcases ih u (by rw [hu.busy]; exact hb) with ⟨t, h, k⟩ | ⟨t, h, k⟩
      · exact .inl ⟨t, h, hu.trans k⟩
      · refine .inr ⟨t, h, ?_⟩
        obtain ⟨a, f, c, i, r, n, rfl⟩ := hu
        exact k
    cases e with
    | read width addr => exact step _ (busRead_access s width addr)
    | write width addr v => exact step _ (busWrite_access s width addr v hb)
    | hardReset => exact .inr ⟨_, rfl, s.hostReads, s.free + 1, rest ++ s.host, rfl⟩

/-- The moment before a sample step (rule R16). -/
theorem hostMoment_cases (s : State) (hb : s.status.busy = true) :
    (∃ t, hostMoment s = .done () t ∧ BusyAccess { s with during := t.during } t)
      ∨ (∃ t, hostMoment s = .reset t ∧ AfterReset { s with during := t.during } t) := by
  unfold hostMoment
  split
  · exact .inl ⟨s, rfl, BusyAccess.refl s⟩
  · rename_i es later he
    rcases duringEvents_cases es { s with during := later } hb with ⟨t, h, k⟩ | ⟨t, h, k⟩
    · refine .inl ⟨t, h, ?_⟩
      obtain ⟨a, f, c, i, r, n, rfl⟩ := k
      exact ⟨a, f, c, i, r, n, rfl⟩
    · refine .inr ⟨t, h, ?_⟩
      obtain ⟨r, n, hh, rfl⟩ := k
      exact ⟨r, n, hh, rfl⟩

/-! ### Writes while idle -/

/-- A write to the window is forbidden, or writes CTRL, an ARG register, a CFG register in UNINIT, or one word of one
memory (rules R23, R62, R255). -/
theorem windowWrite_cases (s t : State) (off : Nat) (v : Word) (h : s.windowWrite off v = some t) :
    (∃ a, t = { s with active := a }) ∨ (∃ q, t = { s with arg := q })
      ∨ (∃ c, t = { s with cfg := c } ∧ s.status.session = .uninit)
      ∨ (∃ id i w, t = s.writeWords id i [w] ∧ hostWritable id s.status.session = true) := by
  unfold State.windowWrite at h
  split at h
  · unfold State.writeReg at h
    split at h
    · cases h; exact .inl ⟨_, rfl⟩
    · split at h
      · rename_i u hu
        cases h
        refine .inr (.inl ?_)
        unfold State.writeArg at hu
        split at hu <;> first | (cases hu; exact ⟨_, rfl⟩) | cases hu
      · split at h
        · rename_i hs
          cases hc : s.cfg.write off v with
          | none => rw [hc] at h; cases h
          | some c => rw [hc] at h; cases h; exact .inr (.inr (.inl ⟨c, rfl, hs⟩))
        · cases h
  · cases hm : s.mapWord off with
    | none => rw [hm] at h; cases h
    | some w =>
      rw [hm] at h
      simp only [Option.bind_some, State.writeMapWord] at h
      split at h
      · rename_i hw
        cases h
        refine .inr (.inr (.inr ⟨_, _, _, rfl, ?_⟩))
        simp only [Bool.and_eq_true] at hw
        exact hw.2
      · cases h

end Sys2Proof.Machine
end

