-- ==== Sys2Proof/Laws/PerInstr.lean ====
section
/-! SUPPORT. A statement made for every command, proved command by command: its word holds its OPC in bits 31:24 and
zeros in bits 23:12. -/

namespace Sys2Proof.Laws

/-- The command's word holds its OPC in bits 31:24 and zeros in bits 23:12 (rules R86, R91). -/
def OpcodeByte.Statement (i : Instr) : Prop :=
  opcField (encode i) = i.opcode ∧ reservedField (encode i) = 0#12

theorem OpcodeByte.nop : OpcodeByte.Statement .nop := by unfold OpcodeByte.Statement; decide
theorem OpcodeByte.init : OpcodeByte.Statement .init := by unfold OpcodeByte.Statement; decide
theorem OpcodeByte.sreset : OpcodeByte.Statement .sreset := by unfold OpcodeByte.Statement; decide
theorem OpcodeByte.fftR (dst : Nibble) : OpcodeByte.Statement (.fftR dst) := by
  unfold OpcodeByte.Statement; revert dst; decide
theorem OpcodeByte.fftC (dst src : Nibble) : OpcodeByte.Statement (.fftC dst src) := by
  unfold OpcodeByte.Statement; revert dst src; decide +kernel
theorem OpcodeByte.ifftN (dst src : Nibble) : OpcodeByte.Statement (.ifftN dst src) := by
  unfold OpcodeByte.Statement; revert dst src; decide +kernel
theorem OpcodeByte.winR (wsel : Nibble) : OpcodeByte.Statement (.winR wsel) := by
  unfold OpcodeByte.Statement; revert wsel; decide
theorem OpcodeByte.winC (dst wsel : Nibble) : OpcodeByte.Statement (.winC dst wsel) := by
  unfold OpcodeByte.Statement; revert dst wsel; decide +kernel
theorem OpcodeByte.cmul (dst src : Nibble) : OpcodeByte.Statement (.cmul dst src) := by
  unfold OpcodeByte.Statement; revert dst src; decide +kernel
theorem OpcodeByte.lpDesign (bank : Nibble) : OpcodeByte.Statement (.lpDesign bank) := by
  unfold OpcodeByte.Statement; revert bank; decide
theorem OpcodeByte.lpApply (bank : Nibble) : OpcodeByte.Statement (.lpApply bank) := by
  unfold OpcodeByte.Statement; revert bank; decide
theorem OpcodeByte.rdSample : OpcodeByte.Statement .rdSample := by unfold OpcodeByte.Statement; decide
theorem OpcodeByte.rdCsample : OpcodeByte.Statement .rdCsample := by unfold OpcodeByte.Statement; decide
theorem OpcodeByte.demodStep : OpcodeByte.Statement .demodStep := by unfold OpcodeByte.Statement; decide
theorem OpcodeByte.corrStep : OpcodeByte.Statement .corrStep := by unfold OpcodeByte.Statement; decide
theorem OpcodeByte.headcmp : OpcodeByte.Statement .headcmp := by unfold OpcodeByte.Statement; decide
theorem OpcodeByte.findHdr : OpcodeByte.Statement .findHdr := by unfold OpcodeByte.Statement; decide
theorem OpcodeByte.rdHbit (flags : Nibble) : OpcodeByte.Statement (.rdHbit flags) := by
  unfold OpcodeByte.Statement; revert flags; decide
theorem OpcodeByte.rdSbit (flags : Nibble) : OpcodeByte.Statement (.rdSbit flags) := by
  unfold OpcodeByte.Statement; revert flags; decide

end Sys2Proof.Laws
end

