-- ==== Sys2Proof/Laws/System.lean ====
section
/-! SUPPORT. What INIT writes besides the memories, and the powers of two it chooses. -/

namespace Sys2Proof.Machine

theorem le_ceilLog2 (n : Nat) : n ≤ 2 ^ ceilLog2 n := by
  unfold ceilLog2
  split
  · simpa using ‹_›
  · have := Nat.lt_log2_self (n := n - 1)
    omega

theorem ceilLog2_le (n k : Nat) (h : n ≤ 2 ^ k) : ceilLog2 n ≤ k := by
  unfold ceilLog2
  split
  · omega
  · have h2 : n - 1 ≠ 0 := by omega
    have h3 := Nat.log2_self_le h2
    by_contra hc
    have : 2 ^ k ≤ 2 ^ (n - 1).log2 := Nat.pow_le_pow_right (by omega) (by omega)
    omega

theorem initTwiddles_spec (s : State) : MemSpec s s.initTwiddles := MemSpec.writeCxs _ _ _ _
theorem initWindow_spec (s : State) (w : Window) : MemSpec s (s.initWindow w) := MemSpec.writeWords _ _ _ _
theorem initWindows_spec (s : State) : MemSpec s s.initWindows :=
  (((initWindow_spec s _).trans (initWindow_spec _ _)).trans (initWindow_spec _ _)).trans (initWindow_spec _ _)
theorem initTemplate_spec (s : State) : MemSpec s s.initTemplate := MemSpec.writeWords _ _ _ _
theorem initSpectrum_spec (s : State) : MemSpec s s.initSpectrum := MemSpec.writeCxs _ _ _ _
theorem initRotation_spec (s : State) : MemSpec s s.initRotation := by
  unfold State.initRotation
  split
  · exact MemSpec.writeCxs _ _ _ _
  · exact MemSpec.refl s
theorem clearReals_spec (s : State) (id : MemId) (n : Nat) : MemSpec s (s.clearReals id n) := MemSpec.writeWords _ _ _ _
theorem clearCxs_spec (s : State) (id : MemId) (n : Nat) : MemSpec s (s.clearCxs id n) := clearReals_spec _ _ _
theorem initWork_spec (s : State) : MemSpec s s.initWork :=
  (((clearReals_spec s _ _).trans (clearCxs_spec _ _ _)).trans (clearCxs_spec _ _ _)).trans (clearCxs_spec _ _ _)
theorem initBuffers_spec (s : State) : MemSpec s s.initBuffers :=
  ((clearReals_spec s _ _).trans (clearReals_spec _ _ _)).trans (clearCxs_spec _ _ _)
theorem initLines_spec (s : State) : MemSpec s s.initLines :=
  ((clearCxs_spec s _ _).trans (clearCxs_spec _ _ _)).trans (clearReals_spec _ _ _)

/-- The tables and the cleared memories of a new session. -/
def State.initMems (s : State) : State :=
  s.initTwiddles.initWindows.initTemplate.initSpectrum.initRotation.initWork.initBuffers.initLines

theorem initMems_spec (s : State) : MemSpec s s.initMems :=
  (((((((initTwiddles_spec s).trans (initWindows_spec _)).trans (initTemplate_spec _)).trans
    (initSpectrum_spec _)).trans (initRotation_spec _)).trans (initWork_spec _)).trans (initBuffers_spec _)).trans
    (initLines_spec _)

/-- INIT: the sizes, the memories, the run-time registers, the status (rule R234). -/
theorem openSession_eq (s : State) : s.openSession = s.initSizes.initMems.initRun.initStatus := rfl

theorem openSession_wf (s : State) (h : s.mem.wf) : s.openSession.mem.wf := by
  rw [openSession_eq, initStatus_mem, initRun_mem]
  exact (initMems_spec _).wf (by rw [initSizes_mem]; exact h)

end Sys2Proof.Machine
end

