-- ==== Sys2Proof/Laws/Transform.lean ====
section
/-! SUPPORT. The transform engine works in place: every stage keeps the number of entries (rules R102, R103). -/

namespace Sys2Proof.Machine

/-- A fold whose every step keeps a list's length keeps it. -/
theorem foldl_length_eq {α β : Type} (f : List α → β → List α) (h : ∀ b x, (f b x).length = b.length) (xs : List β) :
    ∀ b, (xs.foldl f b).length = b.length := by
  induction xs with
  | nil => simp
  | cons x xs ih => simp [ih, h]

@[simp] theorem exchange_length (b : List Cx) (i j : Nat) : (exchange b i j).length = b.length := by
  unfold exchange; split <;> simp

@[simp] theorem bitReversal_length (log2n n : Nat) (b : List Cx) : (bitReversal log2n n b).length = b.length :=
  foldl_length_eq _ (fun _ _ => exchange_length _ _ _) _ _

@[simp] theorem butterfly_length (b : List Cx) (i h : Nat) (w : Cx) : (butterfly b i h w).length = b.length := by
  simp [butterfly]

@[simp] theorem butterfliesAt_length (tw : List Cx) (n h : Nat) (b : List Cx) (j : Nat) :
    (butterfliesAt tw n h b j).length = b.length :=
  foldl_length_eq _ (fun _ _ => butterfly_length _ _ _ _) _ _

@[simp] theorem fftPass_length (tw : List Cx) (n : Nat) (b : List Cx) (p : Nat) : (fftPass tw n b p).length = b.length :=
  foldl_length_eq _ (fun _ _ => butterfliesAt_length _ _ _ _ _) _ _

@[simp] theorem fftCore_length (tw : List Cx) (log2n n : Nat) (b : List Cx) : (fftCore tw log2n n b).length = b.length := by
  unfold fftCore
  rw [foldl_length_eq _ (fun _ _ => fftPass_length _ _ _ _), bitReversal_length]

@[simp] theorem transform_length (s : State) (b : List Cx) : (s.transform b).length = b.length := fftCore_length _ _ _ _

end Sys2Proof.Machine
end

