-- ==== Sys2Proof/Tests/Slice0.lean ====
section
/-! SUPPORT. The model's own tests: ill-formed commands refused, one word of every command written out from the opcode
map, one small step per instruction with the spec's own numbers, and a witness for the hypotheses of every statement. -/

namespace Sys2Proof.Tests

-- Within this namespace theorems are checked one after another: many evaluations started side by side each take a
-- thread's stack, which together pass the memory limit of the check.
set_option Elab.async false

open Sys2Proof.Machine

/-! ### Well-formedness: one ill-formed command for each check (rule R88) -/

theorem test_fftR_reserved_buffer : (Instr.fftR 3#4).wellFormed = false := by decide
theorem test_fftC_reserved_destination : (Instr.fftC 3#4 0#4).wellFormed = false := by decide
theorem test_fftC_reserved_source : (Instr.fftC 0#4 15#4).wellFormed = false := by decide
theorem test_ifftN_reserved_destination : (Instr.ifftN 4#4 0#4).wellFormed = false := by decide
theorem test_ifftN_reserved_source : (Instr.ifftN 0#4 3#4).wellFormed = false := by decide
theorem test_winR_reserved_window : (Instr.winR 4#4).wellFormed = false := by decide
theorem test_winC_reserved_destination : (Instr.winC 3#4 0#4).wellFormed = false := by decide
theorem test_winC_reserved_window : (Instr.winC 0#4 4#4).wellFormed = false := by decide
theorem test_cmul_reserved_destination : (Instr.cmul 3#4 0#4).wellFormed = false := by decide
theorem test_cmul_reserved_source : (Instr.cmul 0#4 3#4).wellFormed = false := by decide
theorem test_lpDesign_reserved_bank : (Instr.lpDesign 4#4).wellFormed = false := by decide
theorem test_lpApply_reserved_bank : (Instr.lpApply 15#4).wellFormed = false := by decide

/-! ### Decoding: a word of every command, OPC in bits 31:24, WSEL 11:8, SRC 7:4, DST, BANK or FLAGS 3:0 (rules R86, R91) -/

theorem test_decode_nop : decode 0b00000000000000000000000000000000#32 = .ok .nop := rfl
theorem test_decode_init : decode 0b00000001000000000000000000000000#32 = .ok .init := rfl
theorem test_decode_sreset : decode 0b00000010000000000000000000000000#32 = .ok .sreset := rfl
theorem test_decode_fftR : decode 0b00010000000000000000000000000010#32 = .ok (.fftR 2#4) := rfl
theorem test_decode_fftC : decode 0b00010001000000000000000000100001#32 = .ok (.fftC 1#4 2#4) := rfl
theorem test_decode_ifftN : decode 0b00010010000000000000000000000010#32 = .ok (.ifftN 2#4 0#4) := rfl
theorem test_decode_winR : decode 0b00010011000000000000001000000000#32 = .ok (.winR 2#4) := rfl
theorem test_decode_winC : decode 0b00010100000000000000001100000010#32 = .ok (.winC 2#4 3#4) := rfl
theorem test_decode_cmul : decode 0b00010101000000000000000000010010#32 = .ok (.cmul 2#4 1#4) := rfl
theorem test_decode_lpDesign : decode 0b00100000000000000000000000000011#32 = .ok (.lpDesign 3#4) := rfl
theorem test_decode_lpApply : decode 0b00100001000000000000000000000001#32 = .ok (.lpApply 1#4) := rfl
theorem test_decode_rdSample : decode 0b00110000000000000000000000000000#32 = .ok .rdSample := rfl
theorem test_decode_rdCsample : decode 0b00110001000000000000000000000000#32 = .ok .rdCsample := rfl
theorem test_decode_demodStep : decode 0b01000000000000000000000000000000#32 = .ok .demodStep := rfl
theorem test_decode_corrStep : decode 0b01010000000000000000000000000000#32 = .ok .corrStep := rfl
theorem test_decode_headcmp : decode 0b01010001000000000000000000000000#32 = .ok .headcmp := rfl
theorem test_decode_findHdr : decode 0b01010010000000000000000000000000#32 = .ok .findHdr := rfl
theorem test_decode_rdHbit : decode 0b01100000000000000000000000001000#32 = .ok (.rdHbit 8#4) := rfl
theorem test_decode_rdSbit : decode 0b01100001000000000000000000001001#32 = .ok (.rdSbit 9#4) := rfl

theorem test_decode_reserved_opcode : decode 0x03000000#32 = .error .unknownOpcode := rfl
theorem test_decode_reserved_bit : decode 0x00001000#32 = .error .reservedBit := rfl
theorem test_decode_reserved_flag : decode 0x60000010#32 = .error .reservedBit := rfl
theorem test_decode_reserved_selector : decode 0x10000003#32 = .error .reservedSelector := rfl
theorem test_decode_bytes :
    decodeBytes [0x21#8, 0x00#8, 0x00#8, 0x11#8, 0xFF#8] = .ok (.fftC 1#4 2#4, [0xFF#8]) := rfl
theorem test_decode_table_word : decodeTableWord 32 0x11000021 = some (.fftC 1#4 2#4) := by decide

/-! ### Helpers -/

/-- The next state of an outcome. -/
def after : Host.Outcome State Fault Refusal → Option State
  | .next t => some t
  | .fault _ => none
  | .refused _ => none

/-- 16-bit mono, real mode, one header bit of one sample, K = 2. -/
def cfg : Cfg :=
  { Cfg.reset with
    sr := 32#32
    fmt := 16#32
    sps := 0x00010000#32
    hdrLen := 1#32
    symLen := 1#32
    bt := fhalf
    k := 2#32 }

/-- N = 4, M = 4, L = 1, K = 2. -/
def sizes : Sizes :=
  { Sizes.reset with
    n := 4#32
    log2n := 2#32
    m := 4#32
    l := 1#32
    k := 2#32
    decm := 1#32 }

/-- A session with three frames left. -/
def ready : State :=
  { State.reset with
    cfg := cfg
    size := sizes
    status := { Status.reset with session := .ready }
    run := { Run.reset with iqdcMaxCnt := 1#32 }
    source := ⟨[⟨0x4000#32, 0#32⟩, ⟨0xC000#32, 0#32⟩, ⟨0#32, 0#32⟩], false⟩ }

/-- `ready` with 8-bit stereo frames and IQ mode. -/
def readyIq : State :=
  { ready with
    cfg := { cfg with fmt := 0x108#32, mode := 1#32 }
    source := ⟨[⟨192#32, 64#32⟩, ⟨255#32, 0#32⟩], false⟩ }

/-- `ready` with other operands. -/
def withArgs (s : State) (a0 a1 : Word) : State := { s with arg := ⟨a0, a1, 0#32, 0#32⟩ }

/-- `ready` after the last frame. -/
def drained (s : State) : State := { s with srcPos := s.source.frames.length }

/-- A session ended by the end of the stream. -/
def ended (s : State) : State := { s with status := { s.status with session := .ended, eos := true } }

/-- A block in the fault state. -/
def faulted (s : State) : State := { s with status := { s.status with fault := true } }

/-- A block with a command running. -/
def busy (s : State) : State := { s with status := { s.status with busy := true } }

/-- A block whose HOST does one thing. -/
def doing (s : State) (e : HostEvent) : State := { s with host := [e] }

/-- Small values of F by name: 1, 2, 3, 4 and their negatives. -/
def f1 : Word := 0x3F800000#32
def f2 : Word := 0x40000000#32
def f3 : Word := 0x40400000#32
def f4 : Word := 0x40800000#32
def fm1 : Word := 0xBF800000#32
def fm2 : Word := 0xC0000000#32

/-- The twiddle ROM for N = 4 (V1). -/
def withTwiddles (s : State) : State := s.writeCxs .tw 0 [⟨f1, fzero⟩, ⟨fzero, fm1⟩]

/-- XN = [1, 2, 3, 4] (V2). -/
def frame1234 : State := withTwiddles (ready.writeWords .xn 0 [f1, f2, f3, f4])

/-- X after V2. -/
def spectrum1234 : List Cx := [⟨0x41200000#32, fzero⟩, ⟨fm2, f2⟩, ⟨fm2, fzero⟩, ⟨fm2, fm2⟩]

/-- A session whose header is one bit, 1, with the unit template in FM and the newest two samples still to come. -/
def search : State :=
  let s := withTwiddles (withArgs { ready with source := ⟨[⟨0x4000#32, 0#32⟩, ⟨0#32, 0#32⟩, ⟨0#32, 0#32⟩], false⟩ } fhalf 0#32)
  ((s.writeCxs .fm 0 [⟨f1, fzero⟩, ⟨f1, fzero⟩, ⟨f1, fzero⟩, ⟨f1, fzero⟩]).writeWords .bufs 0
    [fzero, fzero, fzero, fzero]).writeWords .hdr 0 [1#32]

/-! ### One step of each instruction -/

theorem test_nop : (after (exec .nop ready)).map (fun t => (t.result, t.status.busy)) = some (0#32, false) := by decide
theorem test_nop_faulted : (after (exec .nop (faulted ready))).map State.result = some 0xFFFFFFF8#32 := by decide

/-- With CFG_SR = 0 condition 1 of rule R232 fails. -/
theorem test_init_invalid : (after (exec .init State.reset)).map (fun t => (t.result, t.status.session))
    = some (0xFFFFFFFA#32, .uninit) := by decide
/-- A second INIT is a BadState fault (rule R91). -/
theorem test_init_twice : (after (exec .init ready)).map (fun t => (t.fcause, t.finfo)) = some (2#32, 0x01000000#32) := by
  decide

theorem test_sreset : (after (exec .sreset (faulted (withArgs ready 5#32 6#32)))).map
    (fun t => (t.status, t.arg.r0, t.run.sampleOut)) = some (Status.reset, 0#32, 0xFFFFFFFF#32) := by decide

/-- V2. -/
theorem test_fftR : (after (exec (.fftR 0#4) (withArgs frame1234 4#32 0#32))).map (fun t => t.readCxs .x 4)
    = some spectrum1234 := by decide +kernel
/-- V2, ARG0 = 3. -/
theorem test_fftR_padded : (after (exec (.fftR 0#4) (withArgs frame1234 3#32 0#32))).map (fun t => t.readCx .x 1)
    = some ⟨fm2, fm2⟩ := by decide +kernel

/-- V5. -/
theorem test_fftC : (after (exec (.fftC 1#4 1#4) (withArgs
      (frame1234.writeCxs .z 0 [⟨f1, f1⟩, ⟨fzero, fm1⟩, ⟨f2, fzero⟩, czero]) 4#32 0#32))).map (fun t => t.readCx .z 2)
    = some ⟨f3, f2⟩ := by decide +kernel

/-- V3. -/
theorem test_ifftN : (after (exec (.ifftN 2#4 0#4) (frame1234.writeCxs .x 0 spectrum1234))).map
    (fun t => (t.readCx .cx 1, t.readCx .cx 2)) = some (⟨0x41000000#32, fzero⟩, ⟨0x41400000#32, fnegZero⟩) := by
  decide +kernel

/-- The example of rule R108: 2 times the Hann entry 1/2 is 1. -/
theorem test_winR : (after (exec (.winR 1#4) ((ready.writeWords .xn 0 [f2, f2, f2, f2]).writeWords .wrom
      (ready.inst.nMax) [fzero, fhalf, f1, fhalf]))).map (fun t => t.readReals .xn 4)
    = some [fzero, f1, f2, f1] := by decide +kernel
theorem test_winC : (after (exec (.winC 2#4 1#4) ((ready.writeCxs .cx 0 [⟨f2, f4⟩, ⟨f2, f4⟩, czero, czero]).writeWords .wrom
      (ready.inst.nMax) [fzero, fhalf, f1, fhalf]))).map (fun t => t.readCx .cx 1) = some ⟨f1, f2⟩ := by decide +kernel

/-- The example of rule R110: (2, +0) times (0.5, -1) is (1, -2). -/
theorem test_cmul : (after (exec (.cmul 1#4 0#4) ((ready.writeCxs .x 0 [⟨f2, fzero⟩, czero, czero, czero]).writeCxs .fm 0
      [⟨fhalf, fm1⟩, czero, czero, czero]))).map (fun t => t.readCx .z 0) = some ⟨f1, fm2⟩ := by decide +kernel

/-- Rule R121: a single tap is 1; the request 0 is forced to 1 (rule R122). -/
theorem test_lpDesign_one_tap : (after (exec (.lpDesign 3#4) (withArgs State.reset 0x3E800000#32 0#32))).map
    (fun t => (t.res.r0, t.size.taps3, t.readWord .coef (3 * 2046), t.readWord .coef (3 * 2046 + 1)))
    = some (1#32, 1#32, f1, f1) := by decide +kernel
/-- Rule R122: 1025 taps are more than the bank holds. -/
theorem test_lpDesign_too_long : (after (exec (.lpDesign 0#4) (withArgs State.reset 0x3E800000#32 1024#32))).map
    State.result = some 0xFFFFFFFD#32 := by decide +kernel

/-- V9 (rule R130): the filter of five taps on [1, 1, 1, 0, 0], the newest entry at index 2. -/
theorem test_lpApply : (after (exec (.lpApply 3#4) (({ ready with
      size := { sizes with taps3 := 5#32 }
      run := { Run.reset with lpfmWp := 3#32 } }.writeWords .coef (3 * 2046) [fzero, 0x3E1DBFE7#32, 0x3F31200D#32,
        0x3E1DBFE7#32, fzero, fzero, 0x3E1DBFE7#32, 0x3F31200D#32, 0x3E1DBFE7#32, fzero]).writeWords .lpfm 0
        [f1, f1, f1, fzero, fzero]))).map (fun t => (t.res.r0, t.res.r1)) = some (0x3F589007#32, fzero) := by
  decide +kernel
theorem test_lpApply_undesigned : (after (exec (.lpApply 0#4) ready)).map State.fcause = some 3#32 := by decide

/-- The example of rule R144. -/
theorem test_rdSample : (after (exec .rdSample { ready with srcPos := 1 })).map (fun t => (t.res.r0, t.srcPos))
    = some (0xBF000000#32, 2) := by decide +kernel
theorem test_rdSample_end : (after (exec .rdSample (drained ready))).map (fun t => (t.result, t.status.session, t.status.eos))
    = some (0xFFFFFFFF#32, .ended, true) := by decide

/-- The example of rule R147. -/
theorem test_rdCsample : (after (exec .rdCsample readyIq)).map (fun t => (t.res.r0, t.res.r1))
    = some (fhalf, 0xBF000000#32) := by decide +kernel
theorem test_rdCsample_mono : (after (exec .rdCsample ready)).map (fun t => (t.result, t.fcause))
    = some (0xFFFFFFF8#32, 2#32) := by decide

/-- The example of rule R161, with M = 4. -/
theorem test_demodStep : (after (exec .demodStep { ready with
      cfg := { cfg with delay := 2#32 }
      run := { Run.reset with sampleIn := 7#32, sampleOut := 4#32 } })).map
    (fun t => (t.res.r0, t.readWord .bufs 3, t.run.sampleOut, t.run.sampleIn)) = some (fhalf, fhalf, 5#32, 8#32) := by
  decide +kernel
/-- Rule R173, step 0: no earlier sample, no phase step. -/
theorem test_demodStep_first : (after (exec .demodStep (readyIq.writeCxs .iqbuf 0 [czero, czero, czero, czero]))).map
    (fun t => (t.res.r0, t.readCx .iqbuf 0)) = some (fzero, ⟨fhalf, 0xBF000000#32⟩) := by decide +kernel

/-- Rule R186's corner case: on zeros there is no peak. -/
theorem test_corrStep_no_peak : (after (exec .corrStep search)).map (fun t => (t.result, t.res.r0, t.run.mv))
    = some (0#32, 0xFFFFFFFF#32, fzero) := by decide +kernel
/-- V17's case: a peak at the window's edge is -4 (rule R191). -/
theorem test_corrStep_edge : (after (exec .corrStep (search.writeWords .bufs 3 [f1]))).map (fun t => (t.result, t.res.r0))
    = some (0xFFFFFFFC#32, 2#32) := by decide +kernel

/-- Rule R198: one header bit 1, the sample at MV_POS positive, then negative. -/
theorem test_headcmp_match : (after (exec .headcmp (search.writeWords .bufs 0 [f1]))).map (fun t => (t.res.r0, t.res.r1))
    = some (0#32, 0#32) := by decide +kernel
theorem test_headcmp_mismatch : (after (exec .headcmp (search.writeWords .bufs 0 [fm1]))).map
    (fun t => (t.res.r0, t.res.r1)) = some (1#32, 0#32) := by decide +kernel

/-- Rules R193, R202: the header is the first of the two new samples, its score 1, no mismatch. -/
theorem test_findHdr : (after (exec .findHdr search)).map (fun t => (t.result, t.res.r0, t.res.r1, t.res.r2, t.status.det))
    = some (0#32, 0#32, f1, 0#32, .headerVerified) := by decide +kernel
/-- Rule R201: no active consumer. -/
theorem test_findHdr_lost : (after (exec .findHdr { search with active := false })).map
    (fun t => (t.result, t.status.lost, t.status.det)) = some (0xFFFFFFFB#32, true, .lost) := by decide

/-- Rule R74: CTRL.ACTIVE = 0 written before the second sample step is seen by the check before it (log entry 2). -/
theorem test_findHdr_active_cleared : (after (exec .findHdr { search with during := [[], [.write 4 0x004 0#32]] })).map
    (fun t => (t.result, t.status.lost, t.run.sampleIn, t.srcPos)) = some (0xFFFFFFFB#32, true, 1#32, 1) := by
  decide +kernel

/-- Four buffered samples of `v`, sps = 4, the state of the examples of rules R216 and R217. -/
def buffered (v : Word) : State :=
  { withArgs ready 0#32 0xFFFF0000#32 with
    cfg := { cfg with sps := 0x00040000#32 }
    run := { Run.reset with buffered := 4#32, sampleOut := 3#32 } }.writeWords .bufs 0 [v, v, v, v]

/-- The example of rule R216. -/
theorem test_rdHbit : (after (exec (.rdHbit 8#4) (buffered fhalf))).map
    (fun t => (t.res.r0, t.run.sc, t.run.bg, t.run.buffered)) = some (1#32, 4#32, 0x00040000#48, 0#32) := by
  decide +kernel
/-- The example of rule R217. -/
theorem test_rdSbit : (after (exec (.rdSbit 8#4) (buffered 0xBF000000#32))).map (fun t => (t.res.r0, t.res.r1))
    = some (0#32, fm2) := by decide +kernel
/-- Rules R89, R213: INV negates. -/
theorem test_rdSbit_inverted : (after (exec (.rdSbit 9#4) (buffered 0xBF000000#32))).map (fun t => (t.res.r0, t.res.r1))
    = some (1#32, f2) := by decide +kernel

/-- Rule R281: a hardware reset abandons the command; the SOURCE's position stays (log entry 2). -/
theorem test_rdHbit_abandoned : (after (exec (.rdHbit 0#4) { ready with during := [[.hardReset]] })).map
    (fun t => (t.result, t.status, t.srcPos)) = some (0#32, Status.reset, 0) := by decide

/-- V6 (a): the Hann window over five samples. -/
theorem test_window_hann : windowTable .hann 5 8 = [fzero, fhalf, f1, fhalf, fzero, fzero, fzero, fzero] := by
  decide +kernel

/-! ### The step -/

theorem test_step_runs_word : (after (step (State.reset.withFetchWord 32 0x11000021))).map (fun t => (t.fcause, t.finfo))
    = some (2#32, 0x11000021#32) := by decide
theorem test_step_illegal_word : (after (step (State.reset.withFetchWord 32 0x10000010))).map
    (fun t => (t.fcause, t.finfo, t.result)) = some (1#32, 0x10000010#32, 0xFFFFFFF8#32) := by decide
theorem test_step_read_id : (after (step (doing State.reset (.read 4 0)))).map State.hostReads
    = some [0x52530007#32] := by decide
theorem test_step_write_ready_only : (after (step (doing ready (.write 4 0x40 1#32)))).map
    (fun t => (t.cfg.sr, t.fcause, t.finfo)) = some (32#32, 4#32, 0x40#32) := by decide
/-- STATUS after signal loss in real mode (90_conflicts.md C15). -/
theorem test_status_word : (Status.word { Status.reset with session := .ended, lost := true, locked := true, det := .lost })
    = 0x354#32 := by decide

/-! ### Arithmetic of F -/

theorem test_fadd_ties_to_even : fadd 0x4B800000#32 f1 = 0x4B800000#32 := by decide +kernel
theorem test_fdiv_third : fdiv f1 f3 = 0x3EAAAAAB#32 := by decide +kernel
theorem test_fsqrt_two : fsqrt f2 = 0x3FB504F3#32 := by decide +kernel
/-- The direction of (x, y) = (-∞, +∞) is three quarters of a half turn (log entry 16). -/
theorem test_atan2_infinite : atan2pi .reference 0x7F800000#32 0xFF800000#32 = 0x3F400000#32 := by decide

/-! ### Witnesses: for each statement a state and operands that meet its hypotheses -/

/-- The block right after the event of `doing`. -/
def done (s : State) : State := { s with host := [] }

theorem next_doing (s : State) (e : HostEvent) : (doing s e).Next e (done (doing s e)) := ⟨[], rfl, rfl⟩

/-- CMD of the block at base 0. -/
def issuing (s : State) (w : Word) : State := doing s (.write 4 0x00C w)

theorem wit_DecodeOfEncode : (Instr.fftC 2#4 2#4).wellFormed = true ∧ (Instr.winC 2#4 3#4).wellFormed = true := by decide
theorem wit_EncodeOfDecode : decode 0x61000009#32 = .ok (.rdSbit 9#4) := rfl
theorem wit_StepRunsDecodedCommand :
    (issuing ready 0x40000000#32).Next (.write 4 0x00C 0x40000000#32) (done (issuing ready 0x40000000#32))
      ∧ (issuing ready 0x40000000#32).selected 0x00C = true ∧ offsetOf 0x00C = 0x00C
      ∧ (issuing ready 0x40000000#32).status.busy = false ∧ decode 0x40000000#32 = .ok .demodStep :=
  ⟨next_doing _ _, by decide, by decide, by decide, rfl⟩
theorem wit_IllegalWordFaults :
    (issuing ready 0x10000003#32).Next (.write 4 0x00C 0x10000003#32) (done (issuing ready 0x10000003#32))
      ∧ (issuing ready 0x10000003#32).selected 0x00C = true ∧ offsetOf 0x00C = 0x00C
      ∧ (issuing ready 0x10000003#32).status.busy = false ∧ (issuing ready 0x10000003#32).status.fault = false
      ∧ legalWord 0x10000003#32 = false :=
  ⟨next_doing _ _, by decide⟩
theorem wit_FaultGateBlocks :
    (issuing (faulted ready) 0#32).Next (.write 4 0x00C 0#32) (done (issuing (faulted ready) 0#32))
      ∧ (issuing (faulted ready) 0#32).selected 0x00C = true ∧ offsetOf 0x00C = 0x00C
      ∧ (issuing (faulted ready) 0#32).status.busy = false ∧ (issuing (faulted ready) 0#32).status.fault = true
      ∧ 0#32 ≠ 0x02000000#32 :=
  ⟨next_doing _ _, by decide⟩
theorem wit_WrongSessionFaults :
    Instr.init.wellFormed = true ∧ (Instr.lpDesign 3#4).wellFormed = true ∧ ready.status.fault = false
      ∧ ready.status.session ≠ .uninit ∧ (Instr.fftR 2#4).wellFormed = true ∧ State.reset.status.fault = false
      ∧ State.reset.status.session = .uninit := by decide

/-- The argument checks, at the values next to the legal ones. -/
theorem wit_BadArgumentsFault_length :
    (withArgs ready 5#32 0#32).status.fault = false ∧ (withArgs ready 5#32 0#32).status.session ≠ .uninit
      ∧ (withArgs ready 5#32 0#32).size.n.toNat < (withArgs ready 5#32 0#32).arg.r0.toNat ∧ (2#4).toNat < 3 := by decide
theorem wit_BadArgumentsFault_cutoff :
    State.reset.status.fault = false ∧ State.reset.status.session = .uninit ∧ isNaN 0x7FC00000#32 = true
      ∧ fle fzero fzero = true ∧ fgt 0x3F000001#32 fhalf = true ∧ (3#4).toNat < 4 := by decide
theorem wit_BadArgumentsFault_bank :
    ready.status.fault = false ∧ ready.status.session ≠ .uninit ∧ bankOf 3#4 = some .fm ∧ ready.size.taps .fm = 0 := by decide
theorem wit_BadArgumentsFault_threshold :
    ready.status.fault = false ∧ ready.status.session ≠ .uninit ∧ isNaN 0x7F800001#32 = true
      ∧ flt 0x80000001#32 fzero = true := by decide
theorem wit_BadArgumentsFault_mono :
    ready.status.fault = false ∧ ready.status.session ≠ .uninit ∧ ready.cfg.stereo = false := by decide

theorem wit_ResetRegisters : (doing (busy ready) .hardReset).Next .hardReset (done (doing (busy ready) .hardReset)) :=
  next_doing _ _
theorem wit_HardwareResetTakesAll : (doing (busy ready) .hardReset).Next .hardReset (done (doing (busy ready) .hardReset)) :=
  next_doing _ _
theorem wit_NopCompletes : (1#32).toNat < 2 ^ 24 ∧ 1#32 ≠ 0#32 ∧ (0x00FFFFFF#32).toNat < 2 ^ 24 := by decide
theorem wit_HostReadReturns :
    (doing ready (.read 4 0x114)).Next (.read 4 0x114) (done (doing ready (.read 4 0x114)))
      ∧ (doing ready (.read 4 0x114)).selected 0x114 = true ∧ offsetOf 0x114 % 4 = 0
      ∧ (doing ready (.read 4 0x114)).status.busy = false :=
  ⟨next_doing _ _, by decide⟩

/-- Both ends of the register map, a half of BG, and offsets that hold no register. -/
theorem wit_HostReadReturns_map :
    (0x000, 0x52530007#32) ∈ registerMap ready ∧ (0x0E8, 0#32) ∈ registerMap ready ∧ (0x114, 0#32) ∈ registerMap ready
      ∧ (∀ v, (0x118, v) ∉ registerMap ready) ∧ (∀ v, (2 ^ 24 - 4, v) ∉ registerMap ready)
      ∧ (∀ v, (0x00C, v) ∉ registerMap ready) := by simp [registerMap, ready, State.reset, Run.reset]

/-- Both ends of ARG in a session, both ends of CFG in UNINIT. -/
theorem wit_HostWriteReadsBack :
    (doing ready (.write 4 0x02C 7#32)).Next (.write 4 0x02C 7#32) (done (doing ready (.write 4 0x02C 7#32)))
      ∧ (doing ready (.write 4 0x02C 7#32)).selected 0x02C = true ∧ ready.status.busy = false
      ∧ 0x020 ≤ offsetOf 0x020 ∧ offsetOf 0x02C ≤ 0x02C ∧ offsetOf 0x02C % 4 = 0 ∧ 0x040 ≤ offsetOf 0x040
      ∧ offsetOf 0x074 ≤ 0x074 ∧ offsetOf 0x074 % 4 = 0 ∧ State.reset.status.session = .uninit
      ∧ State.reset.selected 0x074 = true ∧ State.reset.status.busy = false :=
  ⟨next_doing _ _, by decide⟩

theorem wit_HostWriteReadsBack_ctrl :
    (doing ready (.write 4 0x004 6#32)).Next (.write 4 0x004 6#32) (done (doing ready (.write 4 0x004 6#32)))
      ∧ (doing ready (.write 4 0x004 6#32)).selected 0x004 = true ∧ ready.status.busy = false
      ∧ offsetOf 0x004 = 0x004 :=
  ⟨next_doing _ _, by decide⟩

/-- The last writable and the first unwritable word of HDR and X, and CFG in and after UNINIT. -/
theorem wit_HostWriteAllowedExactly :
    State.reset.status.busy = false ∧ State.reset.WriteAllowed (2 ^ 24 + 4 * 255)
      ∧ ¬ State.reset.WriteAllowed (2 ^ 24 + 4 * 256) ∧ State.reset.WriteAllowed 0x074 ∧ ¬ State.reset.WriteAllowed 0x078
      ∧ ready.status.busy = false ∧ ready.WriteAllowed (3 * 2 ^ 24 + 4 * 32767)
      ∧ ¬ ready.WriteAllowed (3 * 2 ^ 24 + 4 * 32768) ∧ ¬ ready.WriteAllowed 0x040 ∧ 3 * 2 ^ 24 + 4 * 32768 < 2 ^ 28 := by
  refine ⟨?_, ?_, ?_, ?_, ?_, ?_, ?_, ?_, ?_, ?_⟩ <;> first | decide | (unfold State.WriteAllowed; decide)
/-- A half-word write to ARG0 and a misaligned word read of CMD's word. -/
theorem wit_HostWriteAllowedExactly_width :
    (doing ready (.write 2 0x020 7#32)).Next (.write 2 0x020 7#32) (done (doing ready (.write 2 0x020 7#32)))
      ∧ (doing ready (.read 4 0x00D)).Next (.read 4 0x00D) (done (doing ready (.read 4 0x00D)))
      ∧ ready.selected 0x020 = true ∧ ready.selected 0x00D = true ∧ 2 ≠ 4 ∧ offsetOf 0x00D % 4 ≠ 0 :=
  ⟨next_doing _ _, next_doing _ _, by decide⟩
theorem wit_BusyAccessesFault :
    (busy ready).status.busy = true ∧ ¬ (4 = 4 ∧ 0x00C = 0x004) ∧ ¬ (2 = 4 ∧ 0x004 = 0x004)
      ∧ ¬ (2 = 4 ∧ (0x008 = 0x004 ∨ 0x008 = 0x008)) := by decide
theorem wit_MemoryMapOneToOne :
    ready.mapWord (0xE * 2 ^ 24 + 2 ^ 23) = some ⟨.rot, 0, true, false⟩ ∧ 0xE * 2 ^ 24 + 2 ^ 23 < 2 ^ 28
      ∧ (0xE * 2 ^ 24 + 2 ^ 23) % 4 = 0 := by decide

/-- The last entries of HDR and XN that a session uses; the first word beyond HDR, and both ends of region 0xF. -/
theorem wit_MemoryMapOneToOne_map :
    ready.inst.legal = true ∧ 255 < ready.inst.hdrMax ∧ 3 < ready.size.n.toNat ∧ 3 < ready.inst.nMax
      ∧ (0x6, .fm) ∈ complexRegions ∧ (regionWord 0x1 0, 256, 2 ^ 22) ∈ mapExtents ready.inst ∧ 256 < 2 ^ 22
      ∧ (regionWord 0xF 0, 0, 2 ^ 22) ∈ mapExtents ready.inst ∧ 2 ^ 22 - 1 < 2 ^ 22 := by decide

/-- The first word of XN and the last session word of CX. -/
theorem wit_HostMemoryReadsBack :
    ready.status.busy = false ∧ ready.status.session = .ready ∧ ready.mapWord (2 * 2 ^ 24) = some ⟨.xn, 0, true, true⟩
      ∧ ready.mapWord (5 * 2 ^ 24 + 28) = some ⟨.cx, 7, true, true⟩ ∧ (5 * 2 ^ 24 + 28) % 4 = 0
      ∧ 5 * 2 ^ 24 + 28 < 6 * 2 ^ 24 := by decide
/-- The last header bit. -/
theorem wit_HostMemoryReadsBack_hdr :
    State.reset.status.busy = false ∧ State.reset.status.session = .uninit ∧ State.reset.inst.legal = true
      ∧ 255 < State.reset.inst.hdrMax := by decide
theorem wit_ConversionExact : (128#32).toNat % 256 = 128 ∧ (0#32).toNat % 65536 = 0 := by decide

/-- The last frame. -/
theorem wit_RdSampleCompletes :
    { ready with srcPos := 2 }.status.fault = false ∧ { ready with srcPos := 2 }.status.session = .ready
      ∧ { ready with srcPos := 2 }.status.eos = false ∧ { ready with srcPos := 2 }.framesLeft 1 = true := by decide
theorem wit_RdCsampleCompletes :
    readyIq.status.fault = false ∧ readyIq.status.session = .ready ∧ readyIq.status.eos = false
      ∧ readyIq.cfg.stereo = true ∧ readyIq.framesLeft 1 = true := by decide
theorem wit_IqdcEstimator :
    ready.run.iqdcCnt + 1#32 = ready.run.iqdcMaxCnt
      ∧ { ready with run := { ready.run with iqdcMaxCnt := 2#32 } }.run.iqdcCnt + 1#32
        ≠ { ready with run := { ready.run with iqdcMaxCnt := 2#32 } }.run.iqdcMaxCnt := by decide

/-- IQ mode with three frames to a sample. -/
def decimating : State :=
  { readyIq with cfg := { readyIq.cfg with mode := 0x11#32 }, size := { sizes with decm := 3#32 } }

/-- No frame left, and two left where three are needed. -/
theorem wit_StreamEndsCleanly :
    (drained ready).status.fault = false ∧ (drained ready).status.session = .ready ∧ (drained ready).status.eos = false
      ∧ (drained ready).framesLeft 1 = false ∧ (drained readyIq).cfg.stereo = true
      ∧ (drained readyIq).framesLeft 1 = false
      ∧ 3 = (if decimating.cfg.iq = true ∧ decimating.cfg.decim = true then decimating.size.decm.toNat else 1)
      ∧ decimating.framesLeft 3 = false ∧ decimating.status.session = .ready ∧ decimating.status.eos = false := by decide
theorem wit_EndedCommandsReturn :
    (ended readyIq).status.fault = false ∧ (ended readyIq).status.session = .ended ∧ (ended readyIq).cfg.stereo = true
      ∧ isNaN (ended readyIq).arg.r0 = false ∧ flt (ended readyIq).arg.r0 fzero = false := by decide
theorem wit_DemodStepRealCompletes :
    { ready with srcPos := 2 }.status.fault = false ∧ { ready with srcPos := 2 }.status.session = .ready
      ∧ { ready with srcPos := 2 }.status.eos = false ∧ { ready with srcPos := 2 }.cfg.iq = false
      ∧ { ready with srcPos := 2 }.framesLeft 1 = true := by decide
theorem wit_DemodStepCompletes :
    readyIq.status.fault = false ∧ readyIq.status.session = .ready ∧ readyIq.status.eos = false
      ∧ readyIq.framesLeft (if readyIq.cfg.iq = true ∧ readyIq.cfg.decim = true then readyIq.size.decm.toNat else 1) = true := by
  decide

/-- IQ mode with two frames to a sample, both left. -/
def decimatingPair : State :=
  { decimating with size := { sizes with decm := 2#32, taps0 := 3#32, rotLen := 2#32 } }

theorem wit_DemodStepCompletes_acquisition :
    readyIq.cfg.decim = false ∧ readyIq.status.eos = false ∧ readyIq.framesLeft 1 = true
      ∧ decimatingPair.cfg.decim = true ∧ decimatingPair.status.eos = false
      ∧ decimatingPair.framesLeft decimatingPair.size.decm.toNat = true := by decide

/-- Every optional stage on. -/
def filtering : State :=
  { readyIq with cfg := { readyIq.cfg with mode := 0xF#32 }, size := { sizes with taps1 := 1#32, taps3 := 3#32 } }

theorem wit_DiscriminatorTakesPhaseStep :
    (readyIq.cfg.derot = false ∧ readyIq.cfg.lpIq = false ∧ readyIq.cfg.lpFm = false
      ∧ isFinite readyIq.run.df = true ∧ ∃ out t, readyIq.iqStages 0#32 czero = (out, t))
    ∧ filtering.cfg.derot = true ∧ filtering.cfg.lpIq = true ∧ filtering.cfg.lpFm = true
      ∧ isFinite 0x7F800000#32 = false ∧ ∃ out t, filtering.iqStages 0#32 czero = (out, t) :=
  ⟨⟨by decide, by decide, by decide, by decide, _, _, rfl⟩, by decide, by decide, by decide, by decide, _, _, rfl⟩

/-- The infinities. -/
theorem wit_AngleExactPoints_infinite :
    isFinite 0x80000000#32 = true ∧ isInf 0x7F800000#32 = true ∧ flt fzero 0x7F800000#32 = true
      ∧ isInf 0xFF800000#32 = true ∧ flt 0xFF800000#32 fzero = true := by decide

/-- Both zeros, the smallest values of either sign, and a NaN. -/
theorem wit_AngleExactPoints :
    isZero fnegZero = true ∧ isZero fzero = true ∧ flt fzero 1#32 = true ∧ flt 0x80000001#32 fzero = true
      ∧ isNaN 0x7F800001#32 = true := by decide
theorem wit_TurnExactPoints : 0 < 1 := by decide

/-- Four entries, the first and the last pass, the lowest and the highest bit. -/
theorem wit_FourPointTransform :
    [czero, czero, czero, czero].length = 2 ^ 2 ∧ 0 < 2 ∧ 1 < 2 ∧ 2 - 1 - 0 = 1 ∧ 2 - 1 - 1 = 0 := by decide

theorem wit_FftRealCompletes :
    bufferOf 2#4 = some .cx ∧ (withArgs ready 4#32 0#32).status.fault = false
      ∧ (withArgs ready 4#32 0#32).status.session ≠ .uninit
      ∧ (withArgs ready 4#32 0#32).arg.r0.toNat ≤ (withArgs ready 4#32 0#32).size.n.toNat := by decide
theorem wit_FftComplexCompletes :
    bufferOf 0#4 = some .x ∧ bufferOf 1#4 = some .z ∧ (withArgs ready 4#32 0#32).status.fault = false
      ∧ (withArgs ready 4#32 0#32).status.session ≠ .uninit
      ∧ (withArgs ready 4#32 0#32).arg.r0.toNat ≤ (withArgs ready 4#32 0#32).size.n.toNat := by decide
theorem wit_InverseCompletes :
    bufferOf 0#4 = some .x ∧ bufferOf 2#4 = some .cx ∧ ready.status.fault = false ∧ ready.status.session ≠ .uninit := by decide
theorem wit_WindowRealCompletes :
    windowOf 3#4 = some .blackman ∧ ready.status.fault = false ∧ ready.status.session ≠ .uninit := by decide
theorem wit_WindowComplexCompletes :
    bufferOf 2#4 = some .cx ∧ windowOf 0#4 = some .boxcar ∧ ready.status.fault = false
      ∧ ready.status.session ≠ .uninit := by decide
theorem wit_SpectrumProductCompletes :
    bufferOf 1#4 = some .z ∧ bufferOf 1#4 = some .z ∧ ready.status.fault = false ∧ ready.status.session ≠ .uninit := by decide

/-- The request 1024 becomes 1025, two above TAPS_MAX; the request 0 becomes 1; the cutoff is the largest. -/
theorem wit_LpDesignCompletes :
    bankOf 3#4 = some .fm ∧ (withArgs State.reset fhalf 1024#32).status.fault = false
      ∧ (withArgs State.reset fhalf 1024#32).status.session = .uninit ∧ flt fzero fhalf = true ∧ fle fhalf fhalf = true
      ∧ 1025 = (if (1024#32).toNat % 2 = 1 then (1024#32).toNat else (1024#32).toNat + 1)
      ∧ State.reset.inst.tapsMax < 1025 ∧ 1 = (if (0#32).toNat % 2 = 1 then (0#32).toNat else (0#32).toNat + 1)
      ∧ 1 ≤ State.reset.inst.tapsMax ∧ lowpassSumIsZero fhalf 1 = false := by decide +kernel

/-- A session with all four banks designed. -/
def designed : State :=
  { ready with size := { sizes with taps0 := 1#32, taps1 := 3#32, taps2 := 3#32, taps3 := 1#32 } }

theorem wit_LpApplyCompletes :
    bankOf 0#4 = some .decim ∧ bankOf 1#4 = some .iqAcq ∧ bankOf 2#4 = some .iqLock ∧ bankOf 3#4 = some .fm
      ∧ designed.status.fault = false ∧ designed.status.session ≠ .uninit ∧ designed.size.taps .decim ≠ 0
      ∧ designed.size.taps .iqAcq ≠ 0 ∧ designed.size.taps .iqLock ≠ 0 ∧ designed.size.taps .fm ≠ 0 := by decide

/-- A threshold of +0, the smallest legal one. -/
theorem wit_CorrStepCompletes :
    ready.status.fault = false ∧ ready.status.session ≠ .uninit ∧ isNaN ready.arg.r0 = false
      ∧ flt ready.arg.r0 fzero = false := by decide
theorem wit_PeakIsFirstMaximum_none : (search.writeCxs .cx 0 [czero, czero, czero, czero]).findPeak.mp = none := by
  decide +kernel
theorem wit_PeakIsFirstMaximum_some :
    (search.writeCxs .cx 0 [⟨f1, fzero⟩, ⟨fm2, fzero⟩, ⟨f2, fzero⟩, czero]).findPeak.mp = some 1
      ∧ search.size.l.toNat - 1 ≤ 0 ∧ 0 < 1 ∧ search.size.l.toNat - 1 ≤ 2
      ∧ 2 ≤ search.size.l.toNat - 1 + search.size.k.toNat := by decide +kernel

/-- `search` in DC-tracking IQ mode, with other contents of DCBUF. -/
def tracking (dcbuf : List Word) : State :=
  { search with cfg := { cfg with mode := 0x21#32 } }.writeWords .dcbuf 0 dcbuf

/-- Both buffers. -/
theorem wit_RetryAdoption_pass :
    1 ≤ search.size.n.toNat ∧ (∃ r u, search.corrPass .bufs false = (r, u)) ∧ ∃ r u, search.corrPass .dcbuf true = (r, u) :=
  ⟨by decide, ⟨_, _, rfl⟩, ⟨_, _, rfl⟩⟩
theorem wit_RetryAdoption_first : search.cfg.tracking = false := by decide
theorem wit_RetryAdoption_rejected :
    (tracking [fzero, fzero, fzero, fzero]).cfg.tracking = true
      ∧ ((tracking [fzero, fzero, fzero, fzero]).corrPass .bufs false).1.exceeds fhalf = false
      ∧ (((tracking [fzero, fzero, fzero, fzero]).corrPass .bufs false).2.corrPass .dcbuf true).1.exceeds fhalf = false := by
  decide +kernel
theorem wit_RetryAdoption_adopted :
    (tracking [fzero, fzero, f1, fzero]).cfg.corrDcz = false
      ∧ ((tracking [fzero, fzero, f1, fzero]).corrPass .bufs false).1.exceeds fhalf = false
      ∧ (((tracking [fzero, fzero, f1, fzero]).corrPass .bufs false).2.corrPass .dcbuf true).1.exceeds fhalf = true := by
  decide +kernel
theorem wit_HeadcmpCompletes : ready.status.fault = false ∧ ready.status.session ≠ .uninit := by decide
theorem wit_FindHdrAlwaysAnswers :
    search.status.fault = false ∧ search.status.session = .ready ∧ isNaN search.arg.r0 = false
      ∧ flt search.arg.r0 fzero = false ∧ search.inst.tNosig * search.cfg.sr.toNat < 2 ^ 32 := by decide
theorem wit_FindHdrOutcomes :
    search.status.fault = false ∧ search.status.session = .ready ∧ search.status.eos = false
      ∧ isNaN search.arg.r0 = false ∧ flt search.arg.r0 fzero = false
      ∧ search.inst.tNosig * search.cfg.sr.toNat < 2 ^ 32 ∧ search.during = [] := by decide
/-- A HOST that writes CTRL and, against rule R255, reads RESULT. -/
theorem wit_FindHdrOutcomes_during :
    ∀ events ∈ [[HostEvent.write 4 0x004 1#32], [HostEvent.read 4 0x010]], HostEvent.hardReset ∉ events := by decide

/-- What the two sample steps of `search` and its correlation step come to, in the first stride. -/
theorem wit_FindHdrReturnsHeader :
    search.status.fault = false ∧ search.status.session = .ready ∧ isNaN search.arg.r0 = false
      ∧ flt search.arg.r0 fzero = false ∧ search.inst.tNosig * search.cfg.sr.toNat < 2 ^ 32 ∧ search.during = []
      ∧ 1 ≤ search.size.k.toNat
      ∧ search.beginCommand.startSearch.searchStrides search.arg.r0 search.arg.r1.toNat 0
        = some search.beginCommand.startSearch
      ∧ ((search.beginCommand.startSearch.searchSteps search.size.k.toNat).map
          (fun u => (u.searchStep search.arg.r0 search.arg.r1.toNat).1)) = some true :=
  ⟨by decide, by decide, by decide, by decide, by decide, by decide, by decide, rfl, by decide +kernel⟩

/-- A candidate that is taken up, its header matching, and a window without a peak. -/
theorem wit_FindHdrReturnsHeader_candidate :
    (∃ r path u, { search with run := { search.run with kcnt := 0#32 } }.bestPass fhalf = (r, path, u))
      ∧ ((search.bestPass fhalf).1 = .noPeak fzero) ∧ isNaN fhalf = false ∧ flt fhalf fzero = false
      ∧ ((search.writeWords .bufs 0 [fzero, fzero, f1, fzero]).searchStep fhalf 0).1 = true :=
  ⟨⟨_, _, _, rfl⟩, by decide +kernel⟩
theorem wit_SignalLossAtOnce :
    { search with active := false }.status.fault = false ∧ { search with active := false }.status.session = .ready
      ∧ isNaN search.arg.r0 = false ∧ flt search.arg.r0 fzero = false ∧ { search with active := false }.during = []
      ∧ { search with active := false }.active = false
      ∧ { search with run := { search.run with nosig := 320#32 } }.inst.tNosig
          * { search with run := { search.run with nosig := 320#32 } }.cfg.sr.toNat
        ≤ { search with run := { search.run with nosig := 320#32 } }.run.nosig.toNat := by decide

/-- The first and the last sample step of the first stride: CTRL.ACTIVE cleared, and a hardware reset. -/
theorem wit_SignalLossAtOnce_later :
    0 < search.size.k.toNat ∧ 1 < search.size.k.toNat
      ∧ [[HostEvent.hardReset]] = List.replicate 0 [] ++ [HostEvent.hardReset] :: []
      ∧ [[], [HostEvent.write 4 0x004 0#32]] = List.replicate 1 [] ++ [HostEvent.write 4 0x004 0#32] :: []
      ∧ ({ search with during := [[HostEvent.hardReset]] }.beginCommand.startSearch.searchSteps 0).isSome = true
      ∧ ({ search with during := [[], [HostEvent.write 4 0x004 0#32]] }.beginCommand.startSearch.searchSteps 1).isSome
        = true
      ∧ search.selected 0x004 = true ∧ offsetOf 0x004 = 0x004 ∧ (0#32).getLsbD 0 = false
      ∧ [HostEvent.hardReset] = [] ++ HostEvent.hardReset :: [] ∧ HostEvent.hardReset ∉ ([] : List HostEvent) := by
  decide +kernel

/-- The symbol clock at its last legal value: two symbols of one sample below 2^32 - 1. -/
def lateClock : State :=
  { ready with
    cfg := { cfg with symLen := 2#32 }
    run := { ready.run with sc := 0xFFFFFFFD#32, bg := 0xFFFFFFFD0000#48 } }

theorem wit_ReadBitCompletes :
    lateClock.status.fault = false ∧ lateClock.status.session = .ready ∧ lateClock.status.eos = false
      ∧ lateClock.during = []
      ∧ 0xFFFFFFFD0000 = (if (0#4).getLsbD 3 = true then 0 else lateClock.run.bg.toNat)
      ∧ 0xFFFFFFFD = (if (0#4).getLsbD 3 = true then 0 else lateClock.run.sc.toNat)
      ∧ 2 = (if lateClock.cfg.symLen.toNat % 4 = 2 then 2 else 1)
      ∧ 0xFFFFFFFD0000 + 2 * lateClock.cfg.sps.toNat ≤ (2 ^ 32 - 1) * 65536 := by decide

/-- Nothing buffered, a symbol of one sample, and a reset before its sample step. -/
theorem wit_ReadBitCompletes_abandoned :
    [[HostEvent.hardReset]] = ([] ++ HostEvent.hardReset :: []) :: [] ∧ HostEvent.hardReset ∉ ([] : List HostEvent)
      ∧ ready.run.buffered.toInt ≤ 0 ∧ 65536 * 0 < 0 + ready.cfg.sps.toNat
      ∧ 0 + 1 * ready.cfg.sps.toNat ≤ (2 ^ 32 - 1) * 65536 := by decide

/-- A symbol of one sample that a sample step gives, and one that the end of the stream takes. -/
theorem wit_BufferedSymbolSum_pulled :
    ready.status.fault = false ∧ ready.status.session = .ready ∧ ready.status.eos = false ∧ ready.during = []
      ∧ 0 + 1 * ready.cfg.sps.toNat ≤ (2 ^ 32 - 1) * 65536 ∧ 1 = (0 + ready.cfg.sps.toNat + 65535) / 65536 - 0
      ∧ 0 = (0 + 1 * ready.cfg.sps.toNat + 65535) / 65536 - (0 + 1) ∧ 0 = ready.run.buffered.toInt.toNat
      ∧ (∃ v, demodStep ready.beginCommand = (some v, (demodStep ready.beginCommand).2))
      ∧ ∃ w, demodStep (drained ready).beginCommand = (none, w) :=
  ⟨by decide, by decide, by decide, by decide, by decide, by decide, by decide, by decide, ⟨_, rfl⟩, ⟨_, rfl⟩⟩
theorem wit_BufferedSymbolSum_next :
    ready.during = [] ∧ ready.run.buffered.toInt ≤ 0 ∧ 0 < (buffered f1).run.buffered.toInt ∧ (buffered f1).during = [] := by
  decide

/-- Exactly the four samples of the two half-symbols are buffered. -/
theorem wit_BufferedSymbolSum_manchester :
    { (buffered f1).cfg with symLen := 2#32, sps := 0x00020000#32 }.symLen.toNat % 4 = 2
      ∧ 2 = (0 + (0x00020000#32).toNat + 65535) / 65536 - 0
      ∧ 2 = (0 + 2 * (0x00020000#32).toNat + 65535) / 65536 - (0 + 2)
      ∧ ((2 + 2 : Nat) : Int) ≤ (buffered f1).run.buffered.toInt
      ∧ 0 + 2 * (0x00020000#32).toNat ≤ (2 ^ 32 - 1) * 65536 := by decide

/-- Exactly the four samples of the symbol are buffered. -/
theorem wit_BufferedSymbolSum :
    (buffered f1).status.fault = false ∧ (buffered f1).status.session = .ready ∧ (buffered f1).cfg.symLen.toNat % 4 ≠ 2
      ∧ 0 = (if (8#4).getLsbD 3 = true then 0 else (buffered f1).run.bg.toNat)
      ∧ 0 = (if (8#4).getLsbD 3 = true then 0 else (buffered f1).run.sc.toNat)
      ∧ 4 = (0 + (buffered f1).cfg.sps.toNat + 65535) / 65536 - 0
      ∧ ((4 : Nat) : Int) ≤ (buffered f1).run.buffered.toInt
      ∧ 0 + (buffered f1).cfg.sps.toNat ≤ (2 ^ 32 - 1) * 65536 := by decide

/-- UNINIT with a configuration that INIT accepts: K + L + DELAY = 3 of M = 4. -/
def configured : State := { State.reset with cfg := cfg }

theorem configured_legal : configured.ConfigLegal where
  rate := by decide
  format := by decide
  mode := by decide
  stereo := by decide
  realMode := by decide
  sps := by decide
  header := by decide
  symbols := by decide
  bt := by decide
  loopGain := by decide
  iqTaps := by decide
  fmTaps := by decide
  decimation := fun h => absurd h (by decide)
  inputRate := by decide
  stride := ⟨by decide, fun e _ h => by
    have := (by simpa [configured, cfg] using h : 196608 ≤ 65536 * 2 ^ e)
    show 3 ≤ 2 ^ e
    omega⟩

theorem wit_InitCompletes :
    configured.status.fault = false ∧ configured.status.session = .uninit ∧ configured.ConfigLegal
      ∧ configured.CapacityLegal :=
  ⟨by decide, by decide, configured_legal, by decide, by decide, by decide⟩
theorem wit_InitTables :
    configured.status.fault = false ∧ configured.status.session = .uninit ∧ configured.inst.legal = true
      ∧ configured.ConfigLegal ∧ configured.CapacityLegal ∧ (∃ t, exec .init configured = .next t)
      ∧ (cfg.k.toNat + (1 * 65536 + 32768) / 65536) % 2 = 1 :=
  ⟨by decide, by decide, by decide, configured_legal, ⟨by decide, by decide, by decide⟩, ⟨_, rfl⟩, by decide⟩

/-- The headers 1 and 0. -/
theorem wit_InitTables_polarity :
    (∃ t, exec .init (configured.writeWords .hdr 0 [1#32]) = .next t)
      ∧ (∃ t, exec .init (configured.writeWords .hdr 0 [0#32]) = .next t)
      ∧ ((after (exec .init (configured.writeWords .hdr 0 [1#32]))).map (fun t => t.readWord .hdr 0)) = some 1#32
      ∧ ((after (exec .init (configured.writeWords .hdr 0 [0#32]))).map (fun t => t.readWord .hdr 0)) = some 0#32 :=
  ⟨⟨_, rfl⟩, ⟨_, rfl⟩, by decide +kernel⟩

/-- `configured` with decimation by 2 and a rotation of a whole turn in 64 samples. -/
def configuredDecim : State :=
  { configured with
    cfg := { cfg with mode := 0x11#32, fmt := 0x110#32, decm := 2#32, rotf := 0xFFFFFFFF#32, rotw := 1#32 }
    size := { Sizes.reset with taps0 := 1#32 } }

theorem wit_InitTables_decim :
    configuredDecim.cfg.decim = true ∧ configuredDecim.ConfigLegal ∧ configuredDecim.CapacityLegal :=
  ⟨by decide, ⟨by decide, by decide, by decide, by decide, by decide, by decide, by decide, by decide, by decide,
    by decide, by decide, by decide, by decide +kernel, by decide, configured_legal.stride⟩,
    by decide, by decide, by decide +kernel⟩

/-- `configured` with a header of 257 bits, where HDR holds 256. -/
def longHeader : State := { configured with cfg := { cfg with hdrLen := 257#32 } }

theorem longHeader_legal : longHeader.ConfigLegal := by
  obtain ⟨rate, format, mode, stereo, real, sps, _, symbols, bt, gain, iq, fm, decim, input, _⟩ := configured_legal
  refine ⟨rate, format, mode, stereo, real, sps, by decide, symbols, bt, gain, iq, fm, decim, input, by decide, ?_⟩
  intro e _ h
  have := (by simpa [longHeader, configured, cfg] using h : 50528256 ≤ 65536 * 2 ^ e)
  show 259 ≤ 2 ^ e
  omega

/-- K + L + DELAY = 5 of M = 4; a header too long for HDR. -/
theorem wit_InitRefuses :
    { configured with cfg := { cfg with k := 4#32 } }.status.fault = false
      ∧ { configured with cfg := { cfg with k := 4#32 } }.status.session = .uninit
      ∧ ¬ { configured with cfg := { cfg with k := 4#32 } }.ConfigLegal
      ∧ longHeader.status.fault = false ∧ longHeader.status.session = .uninit ∧ longHeader.ConfigLegal
      ∧ ¬ longHeader.CapacityLegal :=
  ⟨by decide, by decide, fun h => absurd (h.stride.2 2 (by decide) (by decide)) (by decide), by decide, by decide,
    longHeader_legal, fun h => absurd h.header (by decide)⟩
theorem wit_SizesAreSmallestPowers :
    2 ≤ 2 ^ 2 ∧ 3 * cfg.hdrLen.toNat * cfg.sps.toNat ≤ 65536 * 2 ^ 2 ∧ cfg.k.toNat + cfg.templateLen ≤ 2 ^ 2 := by decide
/-- Finite operands whose sum, root and quotient need rounding, a sum that overflows, a root of a negative value, and each
special operand. -/
theorem wit_ArithmeticRoundsToNearest :
    isFinite f1 = true ∧ isFinite f3 = true ∧ isFinite 0x7F7FFFFF#32 = true ∧ isZero f3 = false
      ∧ (units 0x7F7FFFFF#32 + units 0x7F7FFFFF#32).natAbs ≥ overflowUnits * 1 ∧ isFinite f2 = true ∧ fsign f2 = false
      ∧ fsign fm1 = true ∧ isZero fm1 = false ∧ isNaN 0x7FC00000#32 = true ∧ isInf 0x7F800000#32 = true
      ∧ isInf 0xFF800000#32 = true ∧ fsign 0x7F800000#32 ≠ fsign 0xFF800000#32 ∧ isZero fnegZero = true
      ∧ units fnegZero + units fzero = 0 := by decide +kernel
theorem wit_StepKeepsCanonicalMemories : State.reset.mem.wf ∧ step State.reset = .next State.reset := ⟨by decide, rfl⟩
theorem wit_StepKeepsSessionInvariants : State.reset.Inv ∧ step State.reset = .next State.reset :=
  ⟨⟨by decide, by unfold State.ClockOk; decide, fun h => absurd rfl h⟩, rfl⟩
theorem wit_StepKeepsSessionInvariants_session :
    ready.Inv ∧ ready.status.session ≠ .uninit ∧ step ready = .next ready := by
  refine ⟨⟨by decide, by unfold State.ClockOk; decide, fun _ => ⟨?_, ?_, ?_, ?_, ?_⟩⟩, by decide, rfl⟩
  · unfold State.SizesOk; decide
  · unfold State.ReadPositionOk; decide
  · unfold State.WindowOk; decide
  · unfold State.PointersOk; decide
  · unfold State.StagesOk; decide
theorem wit_CommandsKeepHeader : (∃ t, exec .nop ready = .next t) ∧ ∃ t, exec .sreset ready = .next t :=
  ⟨⟨_, rfl⟩, ⟨_, rfl⟩⟩

end Sys2Proof.Tests
end

section
/-! SUPPORT. The number format F: a value is its sign and its magnitude bits, the magnitude bits are in order of size,
and what each operation answers on special operands (rules R9, R10, R268). -/

namespace Sys2Proof.Machine

/-! ### Sign and magnitude -/

theorem toNat_eq_fmag (a : Word) : a.toNat = fmag a + if fsign a then 2 ^ 31 else 0 := by
  have := a.isLt
  simp only [fmag, fsign, decide_eq_true_eq]
  split <;> omega

/-- A value is its sign and its magnitude bits. -/
theorem word_ext {a b : Word} (hs : fsign a = fsign b) (hm : fmag a = fmag b) : a = b := by
  apply BitVec.eq_of_toNat_eq
  rw [toNat_eq_fmag, toNat_eq_fmag, hs, hm]

theorem toNat_pack (neg : Bool) {m : Nat} (h : m < 2 ^ 31) : (pack neg m).toNat = m + if neg then 2 ^ 31 else 0 := by
  rw [pack, BitVec.toNat_ofNat, Nat.mod_eq_of_lt (by split <;> omega)]

theorem fsign_pack (neg : Bool) {m : Nat} (h : m < 2 ^ 31) : fsign (pack neg m) = neg := by
  rw [fsign, toNat_pack neg h]
  cases neg
  · simpa using h
  · simp

theorem fmag_pack (neg : Bool) {m : Nat} (h : m < 2 ^ 31) : fmag (pack neg m) = m := by
  rw [fmag, toNat_pack neg h]
  split <;> omega

@[simp] theorem fmag_fneg (a : Word) : fmag (fneg a) = fmag a := by
  rw [fmag, fneg, BitVec.toNat_xor, Nat.xor_mod_two_pow]
  exact Nat.xor_zero _

@[simp] theorem fsign_fneg (a : Word) : fsign (fneg a) = !fsign a := by
  have h (w : Word) : fsign w = w.msb := (BitVec.msb_eq_decide w).symm
  rw [h, h, fneg, BitVec.msb_xor]
  exact Bool.xor_true _

@[simp] theorem fmag_fabs (a : Word) : fmag (fabs a) = fmag a := by
  have : a.toNat &&& 0x7FFFFFFF = a.toNat % 2 ^ 31 := Nat.and_two_pow_sub_one_eq_mod _ 31
  simp [fmag, fabs, this]

@[simp] theorem fsign_fabs (a : Word) : fsign (fabs a) = false := by
  have : a.toNat &&& 0x7FFFFFFF = a.toNat % 2 ^ 31 := Nat.and_two_pow_sub_one_eq_mod _ 31
  simp [fsign, fabs, this, Nat.mod_lt]

theorem fneg_pack (neg : Bool) {m : Nat} (h : m < 2 ^ 31) : fneg (pack neg m) = pack (!neg) m :=
  word_ext (by rw [fsign_fneg, fsign_pack _ h, fsign_pack _ h]) (by rw [fmag_fneg, fmag_pack _ h, fmag_pack _ h])

@[simp] theorem isNaN_fneg (a : Word) : isNaN (fneg a) = isNaN a := by simp [isNaN]
@[simp] theorem isInf_fneg (a : Word) : isInf (fneg a) = isInf a := by simp [isInf]
@[simp] theorem isFinite_fneg (a : Word) : isFinite (fneg a) = isFinite a := by simp [isFinite]

@[simp] theorem units_fneg (a : Word) : units (fneg a) = -units a := by
  unfold units
  cases h : fsign a <;> simp [h]

end Sys2Proof.Machine
end

section
/-! SUPPORT. What kind of value a word is, the magnitudes in order of size, and the comparisons (rule R10). -/

namespace Sys2Proof.Machine

/-! ### Kinds of values -/

theorem infMag_eq : infMag = 255 * 2 ^ 23 := rfl

theorem isNaN_of_isInf {a : Word} (h : isInf a = true) : isNaN a = false := by
  simp only [isInf, isNaN, decide_eq_true_eq, decide_eq_false_iff_not] at h ⊢
  omega

theorem isZero_of_isInf {a : Word} (h : isInf a = true) : isZero a = false := by
  have := infMag_eq
  simp only [isInf, isZero, decide_eq_true_eq, decide_eq_false_iff_not] at h ⊢
  omega

theorem isFinite_of_isInf {a : Word} (h : isInf a = true) : isFinite a = false := by
  simp only [isInf, isFinite, decide_eq_true_eq, decide_eq_false_iff_not] at h ⊢
  omega

theorem isNaN_of_isFinite {a : Word} (h : isFinite a = true) : isNaN a = false := by
  simp only [isFinite, isNaN, decide_eq_true_eq, decide_eq_false_iff_not] at h ⊢
  omega

theorem isInf_of_isFinite {a : Word} (h : isFinite a = true) : isInf a = false := by
  simp only [isFinite, isInf, decide_eq_true_eq, decide_eq_false_iff_not] at h ⊢
  omega

theorem isFinite_of_isZero {a : Word} (h : isZero a = true) : isFinite a = true := by
  have := infMag_eq
  simp only [isZero, isFinite, decide_eq_true_eq] at h ⊢
  omega

theorem isInf_pack (neg : Bool) : isInf (pack neg infMag) = true :=
  decide_eq_true (fmag_pack neg (by decide))

theorem isZero_pack (neg : Bool) : isZero (pack neg 0) = true :=
  decide_eq_true (fmag_pack neg (by decide))

/-- The NaN an operation answers is a NaN, whatever its free payload is. -/
theorem isNaN_nanOf (op : FOp) (a b : Word) : isNaN (nanOf op a b) = true := by
  refine decide_eq_true ?_
  have hinf := infMag_eq
  have hlt := Nat.mod_lt (Config.nanPayload op.id a b).toNat (show 0 < 2 ^ 23 by decide)
  dsimp only [nanOf]
  split
  · rw [fmag_pack _ (by decide)]
    decide
  · rw [fmag_pack _ (by omega)]
    omega

theorem isZero_iff (a : Word) : isZero a = true ↔ a = fzero ∨ a = fnegZero := by
  constructor
  · intro h
    have hm : fmag a = 0 := by simpa [isZero] using h
    cases hs : fsign a
    · exact .inl (word_ext hs hm)
    · exact .inr (word_ext hs hm)
  · rintro (rfl | rfl) <;> decide

/-! ### Magnitudes -/

theorem magUnits_subnormal {m : Nat} (h : m < 2 ^ 23) : magUnits m = m := by
  rw [magUnits, if_pos (Nat.div_eq_of_lt h)]

/-- A normal magnitude: exponent field `e + 1` and fraction `f`. -/
theorem magUnits_normal (e : Nat) {f : Nat} (h : f < 2 ^ 23) :
    magUnits ((e + 1) * 2 ^ 23 + f) = (2 ^ 23 + f) * 2 ^ e := by
  have hd : ((e + 1) * 2 ^ 23 + f) / 2 ^ 23 = e + 1 := by omega
  have hm : ((e + 1) * 2 ^ 23 + f) % 2 ^ 23 = f := by omega
  rw [magUnits, hd, hm, if_neg (by omega), Nat.add_comm f]
  rfl

/-- Every magnitude is subnormal or normal. -/
theorem mag_cases (m : Nat) : m < 2 ^ 23 ∨ ∃ e f, f < 2 ^ 23 ∧ m = (e + 1) * 2 ^ 23 + f := by
  by_cases h : m < 2 ^ 23
  · exact .inl h
  · exact .inr ⟨m / 2 ^ 23 - 1, m % 2 ^ 23, by omega, by omega⟩

/-- A significand of 24 bits, 2^24 included, on the exponent step `e`: how `roundMag` puts magnitude bits together. -/
theorem magUnits_step (e : Nat) {k : Nat} (hk : k ≤ 2 ^ 24) (he : e = 0 ∨ 2 ^ 23 ≤ k) :
    magUnits (e * 2 ^ 23 + k) = k * 2 ^ e := by
  by_cases hsub : k < 2 ^ 23
  · obtain rfl : e = 0 := by omega
    simpa using magUnits_subnormal hsub
  · by_cases htop : k = 2 ^ 24
    · subst htop
      rw [show e * 2 ^ 23 + 2 ^ 24 = (e + 1 + 1) * 2 ^ 23 + 0 by ring, magUnits_normal _ (by decide)]
      ring
    · rw [show e * 2 ^ 23 + k = (e + 1) * 2 ^ 23 + (k - 2 ^ 23) by omega, magUnits_normal _ (by omega),
        show 2 ^ 23 + (k - 2 ^ 23) = k by omega]

theorem magUnits_strictMono : StrictMono magUnits := by
  apply strictMono_nat_of_lt_succ
  intro m
  rcases mag_cases m with h | ⟨e, f, hf, rfl⟩
  · rw [magUnits_subnormal h, show m + 1 = 0 * 2 ^ 23 + (m + 1) by omega, magUnits_step 0 (by omega) (.inl rfl)]
    omega
  · rw [magUnits_normal e hf, show (e + 1) * 2 ^ 23 + f + 1 = e * 2 ^ 23 + (2 ^ 23 + f + 1) by ring,
      magUnits_step e (by omega) (.inr (by omega))]
    exact Nat.mul_lt_mul_of_pos_right (by omega) (Nat.two_pow_pos e)

theorem magUnits_zero : magUnits 0 = 0 := rfl

theorem magUnits_eq_zero {m : Nat} : magUnits m = 0 ↔ m = 0 :=
  magUnits_strictMono.injective.eq_iff' magUnits_zero

theorem units_natAbs (a : Word) : (units a).natAbs = magUnits (fmag a) := by
  unfold units
  split <;> simp

/-- A magnitude is below every power of two from the one on that its exponent field names. -/
theorem magUnits_lt_two_pow {m c : Nat} (h : 24 + m / 2 ^ 23 ≤ c) : magUnits m < 2 ^ c := by
  rcases mag_cases m with hm | ⟨e, f, hf, rfl⟩
  · calc magUnits m = m := magUnits_subnormal hm
      _ < 2 ^ 23 := hm
      _ ≤ 2 ^ c := Nat.pow_le_pow_right (by decide) (by omega)
  · calc magUnits ((e + 1) * 2 ^ 23 + f) = (2 ^ 23 + f) * 2 ^ e := magUnits_normal e hf
      _ < 2 ^ 24 * 2 ^ e := Nat.mul_lt_mul_of_pos_right (by omega) (Nat.two_pow_pos e)
      _ = 2 ^ (24 + e) := (Nat.pow_add 2 24 e).symm
      _ ≤ 2 ^ c := Nat.pow_le_pow_right (by decide) (by omega)

/-! ### Comparisons -/

/-- The place of a magnitude in the order of size, infinity beyond all: `valueOrder` without the sign. -/
def magOrder (m : Nat) : Nat := if m = infMag then 2 ^ 300 else magUnits m

theorem valueOrder_eq (a : Word) :
    valueOrder a = if fsign a = true then -(magOrder (fmag a) : Int) else (magOrder (fmag a) : Int) := by
  by_cases h : fmag a = infMag
  · rw [valueOrder, isInf, decide_eq_true h, if_pos rfl, magOrder, if_pos h, Nat.cast_pow]
    rfl
  · rw [valueOrder, isInf, decide_eq_false h, if_neg Bool.false_ne_true, magOrder, if_neg h]
    rfl

theorem magOrder_strictMonoOn : StrictMonoOn magOrder (Set.Iic infMag) := by
  intro m _ n hn hmn
  have hm : m < infMag := lt_of_lt_of_le hmn hn
  rw [magOrder, if_neg hm.ne, magOrder]
  split
  · have := infMag_eq
    exact magUnits_lt_two_pow (by omega)
  · exact magUnits_strictMono hmn

theorem fmag_le_of_not_isNaN {a : Word} (h : isNaN a = false) : fmag a ≤ infMag := by
  simpa [isNaN] using h

/-- The order of the bits is the order of the values. -/
theorem forder_lt_iff {a b : Word} (ha : isNaN a = false) (hb : isNaN b = false) :
    forder a < forder b ↔ valueOrder a < valueOrder b := by
  have hma := fmag_le_of_not_isNaN ha
  have hmb := fmag_le_of_not_isNaN hb
  have hab := magOrder_strictMonoOn.lt_iff_lt hma hmb
  have hba := magOrder_strictMonoOn.lt_iff_lt hmb hma
  have h0 : magOrder 0 = 0 := rfl
  have ha0 := magOrder_strictMonoOn.lt_iff_lt (Nat.zero_le infMag) hma
  have hb0 := magOrder_strictMonoOn.lt_iff_lt (Nat.zero_le infMag) hmb
  rw [valueOrder_eq, valueOrder_eq, forder, forder]
  cases fsign a <;> cases fsign b <;> simp only [Bool.false_eq_true, if_true, if_false] <;> omega

theorem flt_iff {a b : Word} (ha : isNaN a = false) (hb : isNaN b = false) :
    flt a b = true ↔ valueOrder a < valueOrder b := by
  simp [flt, ha, hb, forder_lt_iff]

theorem fle_iff {a b : Word} (ha : isNaN a = false) (hb : isNaN b = false) :
    fle a b = true ↔ valueOrder a ≤ valueOrder b := by
  simp only [fle, ha, hb, Bool.not_false, Bool.true_and, decide_eq_true_eq]
  rw [← not_lt, ← not_lt, forder_lt_iff hb ha]

theorem compare_nan {a b : Word} (h : isNaN a = true ∨ isNaN b = true) : flt a b = false ∧ fle a b = false := by
  rcases h with h | h <;> simp [flt, fle, h]

theorem comparisons : Comparisons := by
  refine ⟨fun a b => ⟨fun h => ?_, fun ha hb => ?_⟩, fun a => ?_⟩
  · obtain ⟨hlt, hle⟩ := compare_nan h
    obtain ⟨hgt, hge⟩ := compare_nan h.symm
    exact ⟨hlt, hle, hgt, hge⟩
  · exact ⟨flt_iff ha hb, fle_iff ha hb, flt_iff hb ha, fle_iff hb ha⟩
  · exact ⟨fmag_fneg a, fsign_fneg a, fmag_fabs a, fsign_fabs a⟩

end Sys2Proof.Machine
end

section
/-! SUPPORT. Special operands: what each operation answers on NaNs, infinities and zeros (rules R10, R268). -/

namespace Sys2Proof.Machine

/-! ### Sums -/

theorem addAs_nan {op : FOp} {a b a' b' : Word} (h : isNaN a = true ∨ isNaN b = true) :
    isNaN (addAs op a b a' b') = true := by
  rw [addAs, if_pos (by simpa using h)]
  exact isNaN_nanOf _ _ _

theorem addAs_inf_finite {op : FOp} {a b a' b' : Word} (ha : isInf a = true) (hb : isFinite b = true) :
    addAs op a b a' b' = a := by
  simp [addAs, ha, isNaN_of_isInf ha, isNaN_of_isFinite hb, isInf_of_isFinite hb]

theorem addAs_finite_inf {op : FOp} {a b a' b' : Word} (ha : isFinite a = true) (hb : isInf b = true) :
    addAs op a b a' b' = b := by
  simp [addAs, hb, isNaN_of_isFinite ha, isNaN_of_isInf hb, isInf_of_isFinite ha]

theorem addAs_inf_inf {op : FOp} {a b a' b' : Word} (ha : isInf a = true) (hb : isInf b = true) :
    addAs op a b a' b' = if fsign a = fsign b then a else nanOf op a' b' := by
  by_cases h : fsign a = fsign b <;> simp [addAs, ha, hb, isNaN_of_isInf, h]

theorem addAs_finite {op : FOp} {a b a' b' : Word} (ha : isFinite a = true) (hb : isFinite b = true) :
    addAs op a b a' b' = roundSum (fsign a) (fsign b) (units a + units b) := by
  simp [addAs, isNaN_of_isFinite, isInf_of_isFinite, ha, hb]

theorem fadd_finite {a b : Word} (ha : isFinite a = true) (hb : isFinite b = true) :
    fadd a b = roundSum (fsign a) (fsign b) (units a + units b) := addAs_finite ha hb

theorem fsub_finite {a b : Word} (ha : isFinite a = true) (hb : isFinite b = true) :
    fsub a b = roundSum (fsign a) (!fsign b) (units a - units b) := by
  rw [fsub, addAs_finite ha (by rwa [isFinite_fneg]), fsign_fneg, units_fneg, Int.sub_eq_add_neg]

theorem roundSum_zero (sa sb : Bool) : roundSum sa sb 0 = if sa = true ∧ sb = true then fnegZero else fzero := by
  cases sa <;> cases sb <;> rfl

/-! ### Products -/

theorem fmul_nan {a b : Word} (h : isNaN a = true ∨ isNaN b = true) : isNaN (fmul a b) = true := by
  rw [fmul, if_pos (by simpa using h)]
  exact isNaN_nanOf _ _ _

theorem fmul_inf_left {a b : Word} (ha : isInf a = true) (hb : isNaN b = false) :
    fmul a b = if isZero b then nanOf .mul a b else pack (fsign a != fsign b) infMag := by
  simp [fmul, ha, isNaN_of_isInf ha, hb]

theorem fmul_inf_right {a b : Word} (ha : isFinite a = true) (hb : isInf b = true) :
    fmul a b = if isZero a then nanOf .mul a b else pack (fsign a != fsign b) infMag := by
  simp [fmul, isNaN_of_isFinite ha, isInf_of_isFinite ha, isNaN_of_isInf hb, hb]

theorem fmul_finite {a b : Word} (ha : isFinite a = true) (hb : isFinite b = true) :
    fmul a b = roundUnits (fsign a != fsign b) (magUnits (fmag a) * magUnits (fmag b)) (2 ^ 149) := by
  simp [fmul, isNaN_of_isFinite, isInf_of_isFinite, ha, hb]

/-! ### Quotients -/

theorem fdiv_nan {a b : Word} (h : isNaN a = true ∨ isNaN b = true) : isNaN (fdiv a b) = true := by
  rw [fdiv, if_pos (by simpa using h)]
  exact isNaN_nanOf _ _ _

theorem fdiv_inf_left {a b : Word} (ha : isInf a = true) (hb : isNaN b = false) :
    fdiv a b = if isInf b then nanOf .div a b else pack (fsign a != fsign b) infMag := by
  simp [fdiv, ha, isNaN_of_isInf ha, hb]

theorem fdiv_inf_right {a b : Word} (ha : isFinite a = true) (hb : isInf b = true) :
    fdiv a b = pack (fsign a != fsign b) 0 := by
  simp [fdiv, isNaN_of_isFinite ha, isInf_of_isFinite ha, isNaN_of_isInf hb, hb]

theorem fdiv_by_zero {a b : Word} (ha : isFinite a = true) (hb : isZero b = true) :
    fdiv a b = if isZero a then nanOf .div a b else pack (fsign a != fsign b) infMag := by
  have hfb := isFinite_of_isZero hb
  simp [fdiv, isNaN_of_isFinite, isInf_of_isFinite, ha, hfb, hb]

theorem fdiv_finite {a b : Word} (ha : isFinite a = true) (hb : isFinite b = true) (hz : isZero b = false) :
    fdiv a b = roundUnits (fsign a != fsign b) (magUnits (fmag a) * 2 ^ 149) (magUnits (fmag b)) := by
  simp [fdiv, isNaN_of_isFinite, isInf_of_isFinite, ha, hb, hz]

/-! ### The sign of a product and a quotient -/

theorem roundMag_le (num den : Nat) : roundMag num den ≤ infMag := Nat.min_le_left _ _

theorem roundMag_lt (num den : Nat) : roundMag num den < 2 ^ 31 :=
  (roundMag_le num den).trans_lt (by decide)

theorem fsign_roundUnits (neg : Bool) (num den : Nat) : fsign (roundUnits neg num den) = neg :=
  fsign_pack neg (roundMag_lt num den)

theorem fmag_roundUnits (neg : Bool) (num den : Nat) : fmag (roundUnits neg num den) = roundMag num den :=
  fmag_pack neg (roundMag_lt num den)

/-- A value is a NaN, an infinity or finite. -/
theorem kind_cases (a : Word) : isNaN a = true ∨ isInf a = true ∨ isFinite a = true := by
  simp only [isNaN, isInf, isFinite, decide_eq_true_eq]
  omega

/-- A word that is not a NaN and is, by its kind, a NaN or a word with the sign `neg`, has that sign. -/
theorem fsign_ite_nanOf {c : Bool} {op : FOp} {a b w : Word} {neg : Bool}
    (h : isNaN (if c then nanOf op a b else w) = false) (hw : fsign w = neg) :
    fsign (if c then nanOf op a b else w) = neg := by
  cases c
  · exact hw
  · exact absurd h (by simp [isNaN_nanOf])

theorem fsign_fmul {a b : Word} (h : isNaN (fmul a b) = false) : fsign (fmul a b) = (fsign a ^^ fsign b) := by
  have hnan : ¬ (isNaN a = true ∨ isNaN b = true) := fun hn => by simp [fmul_nan hn] at h
  rcases kind_cases a with ha | ha | ha
  · exact absurd (.inl ha) hnan
  · rw [fmul_inf_left ha (by simpa using fun hb => hnan (.inr hb))] at h ⊢
    exact fsign_ite_nanOf h (fsign_pack _ (by decide))
  · rcases kind_cases b with hb | hb | hb
    · exact absurd (.inr hb) hnan
    · rw [fmul_inf_right ha hb] at h ⊢
      exact fsign_ite_nanOf h (fsign_pack _ (by decide))
    · rw [fmul_finite ha hb]
      exact fsign_roundUnits _ _ _

theorem fsign_fdiv {a b : Word} (h : isNaN (fdiv a b) = false) : fsign (fdiv a b) = (fsign a ^^ fsign b) := by
  have hnan : ¬ (isNaN a = true ∨ isNaN b = true) := fun hn => by simp [fdiv_nan hn] at h
  rcases kind_cases a with ha | ha | ha
  · exact absurd (.inl ha) hnan
  · rw [fdiv_inf_left ha (by simpa using fun hb => hnan (.inr hb))] at h ⊢
    exact fsign_ite_nanOf h (fsign_pack _ (by decide))
  · rcases kind_cases b with hb | hb | hb
    · exact absurd (.inr hb) hnan
    · rw [fdiv_inf_right ha hb]
      exact fsign_pack _ (by decide)
    · by_cases hz : isZero b = true
      · rw [fdiv_by_zero ha hz] at h ⊢
        exact fsign_ite_nanOf h (fsign_pack _ (by decide))
      · rw [fdiv_finite ha hb (by simpa using hz)]
        exact fsign_roundUnits _ _ _

/-! ### The rules of special operands -/

theorem nan_operand {a b : Word} (h : isNaN a = true ∨ isNaN b = true) :
    isNaN (fadd a b) = true ∧ isNaN (fsub a b) = true ∧ isNaN (fmul a b) = true ∧ isNaN (fdiv a b) = true :=
  ⟨addAs_nan h, addAs_nan (by rwa [isNaN_fneg]), fmul_nan h, fdiv_nan h⟩

theorem inf_finite_operands {a b : Word} (ha : isInf a = true) (hb : isFinite b = true) :
    fadd a b = a ∧ fsub a b = a ∧ (isZero b = true → isNaN (fmul a b) = true)
      ∧ (isZero b = false → isInf (fmul a b) = true) ∧ isInf (fdiv a b) = true := by
  have hn := isNaN_of_isFinite hb
  refine ⟨addAs_inf_finite ha hb, addAs_inf_finite ha (by rwa [isFinite_fneg]), fun hz => ?_, fun hz => ?_, ?_⟩
  · rw [fmul_inf_left ha hn, if_pos hz]
    exact isNaN_nanOf _ _ _
  · rw [fmul_inf_left ha hn, hz]
    exact isInf_pack _
  · rw [fdiv_inf_left ha hn, isInf_of_isFinite hb]
    exact isInf_pack _

theorem finite_inf_operands {a b : Word} (ha : isFinite a = true) (hb : isInf b = true) :
    fadd a b = b ∧ fsub a b = fneg b ∧ (isZero a = true → isNaN (fmul a b) = true)
      ∧ (isZero a = false → isInf (fmul a b) = true) ∧ isZero (fdiv a b) = true := by
  refine ⟨addAs_finite_inf ha hb, addAs_finite_inf ha (by rwa [isInf_fneg]), fun hz => ?_, fun hz => ?_, ?_⟩
  · rw [fmul_inf_right ha hb, if_pos hz]
    exact isNaN_nanOf _ _ _
  · rw [fmul_inf_right ha hb, hz]
    exact isInf_pack _
  · rw [fdiv_inf_right ha hb]
    exact isZero_pack _

theorem inf_inf_operands {a b : Word} (ha : isInf a = true) (hb : isInf b = true) :
    isInf (fmul a b) = true ∧ isNaN (fdiv a b) = true
      ∧ (fsign a = fsign b → fadd a b = a ∧ isNaN (fsub a b) = true)
      ∧ (fsign a ≠ fsign b → isNaN (fadd a b) = true ∧ fsub a b = a) := by
  have hn := isNaN_of_isInf hb
  have hadd : fadd a b = if fsign a = fsign b then a else nanOf .add a b := addAs_inf_inf ha hb
  have hsub : fsub a b = if fsign a = fsign (fneg b) then a else nanOf .sub a b :=
    addAs_inf_inf ha (by rwa [isInf_fneg])
  rw [fsign_fneg] at hsub
  refine ⟨?_, ?_, fun h => ?_, fun h => ?_⟩
  · rw [fmul_inf_left ha hn, isZero_of_isInf hb]
    exact isInf_pack _
  · rw [fdiv_inf_left ha hn, if_pos hb]
    exact isNaN_nanOf _ _ _
  · rw [hadd, hsub, if_pos h, if_neg (by simp [h])]
    exact ⟨rfl, isNaN_nanOf _ _ _⟩
  · rw [hadd, hsub, if_neg h, if_pos (Bool.eq_not.2 h)]
    exact ⟨isNaN_nanOf _ _ _, rfl⟩

theorem zero_divisor {a b : Word} (ha : isFinite a = true) (hb : isZero b = true) :
    (isZero a = true → isNaN (fdiv a b) = true) ∧ (isZero a = false → isInf (fdiv a b) = true) := by
  rw [fdiv_by_zero ha hb]
  refine ⟨fun hz => ?_, fun hz => ?_⟩
  · rw [if_pos hz]
    exact isNaN_nanOf _ _ _
  · rw [hz]
    exact isInf_pack _

theorem exact_zero_sums {a b : Word} (ha : isFinite a = true) (hb : isFinite b = true) :
    (units a + units b = 0 → fadd a b = if fsign a = true ∧ fsign b = true then fnegZero else fzero)
      ∧ (units a = units b → fsub a b = if fsign a = true ∧ fsign b = false then fnegZero else fzero) := by
  refine ⟨fun h => ?_, fun h => ?_⟩
  · rw [fadd_finite ha hb, h, roundSum_zero]
  · rw [fsub_finite ha hb, h, Int.sub_self, roundSum_zero]
    simp only [Bool.not_eq_true']

theorem specialOperands : SpecialOperands := fun _ _ =>
  ⟨nan_operand, inf_finite_operands, finite_inf_operands, inf_inf_operands, zero_divisor, fsign_fmul, fsign_fdiv,
    exact_zero_sums⟩

end Sys2Proof.Machine
end

section
/-! SUPPORT. Rounding: `roundUnits` is nearest to the exact quotient, ties to even, and overflows from half a step
beyond the largest finite value on (rules R10, R12). -/

namespace Sys2Proof.Machine

/-! ### Rounding to an integer -/

/-- The rounded quotient is at most half a divisor away, and even if it is exactly that far. -/
theorem roundHalfEven_bounds (num : Nat) {den : Nat} (hden : 0 < den) :
    2 * (roundHalfEven num den * den) ≤ 2 * num + den ∧ 2 * num ≤ 2 * (roundHalfEven num den * den) + den
      ∧ ((2 * (roundHalfEven num den * den) = 2 * num + den ∨ 2 * num = 2 * (roundHalfEven num den * den) + den) →
        roundHalfEven num den % 2 = 0) := by
  have hdm := Nat.div_add_mod' num den
  have hr := Nat.mod_lt num hden
  simp only [roundHalfEven]
  split
  · rw [Nat.add_mul, Nat.one_mul]
    omega
  · omega

theorem roundHalfEven_le {num den M : Nat} (hden : 0 < den) (h : num < M * den) : roundHalfEven num den ≤ M := by
  have := (Nat.div_lt_iff_lt_mul hden).2 h
  simp only [roundHalfEven]
  split <;> omega

theorem le_roundHalfEven {num den M : Nat} (hden : 0 < den) (h : M * den ≤ num) : M ≤ roundHalfEven num den := by
  have := (Nat.le_div_iff_mul_le hden).2 h
  simp only [roundHalfEven]
  split <;> omega

/-- No integer is nearer to the quotient, and one as near is the rounded one or that is even. -/
theorem roundHalfEven_nearest (num : Nat) {den : Nat} (hden : 0 < den) (j : Nat) :
    (((roundHalfEven num den * den : Nat) : Int) - num).natAbs ≤ (((j * den : Nat) : Int) - num).natAbs
      ∧ ((((roundHalfEven num den * den : Nat) : Int) - num).natAbs = (((j * den : Nat) : Int) - num).natAbs →
        j = roundHalfEven num den ∨ roundHalfEven num den % 2 = 0) := by
  obtain ⟨hle, hge, htie⟩ := roundHalfEven_bounds num hden
  generalize roundHalfEven num den = k at *
  rcases Nat.lt_trichotomy j k with h | rfl | h
  · have : (j + 1) * den ≤ k * den := Nat.mul_le_mul_right den h
    rw [Nat.add_mul, Nat.one_mul] at this
    omega
  · simp
  · have : (k + 1) * den ≤ j * den := Nat.mul_le_mul_right den h
    rw [Nat.add_mul, Nat.one_mul] at this
    omega

/-- Half an integer below 2^24 a quotient begins to round to 2^24: 2^24 - 1 is odd, so the tie goes up. -/
theorem le_roundHalfEven_iff_top (num : Nat) {w : Nat} (hw : 0 < w) :
    2 ^ 24 ≤ roundHalfEven num (2 * w) ↔ (2 ^ 25 - 1) * w ≤ num := by
  obtain ⟨hdown, hup, htie⟩ := roundHalfEven_bounds num (show 0 < 2 * w by omega)
  generalize roundHalfEven num (2 * w) = k at *
  rw [Nat.mul_left_comm k 2 w] at hdown hup htie
  constructor
  · intro hk
    have := Nat.mul_le_mul_right w hk
    omega
  · intro hover
    by_contra hnot
    rcases (show k ≤ 2 ^ 24 - 2 ∨ k = 2 ^ 24 - 1 by omega) with hk | rfl
    · have := Nat.mul_le_mul_right w hk
      omega
    · omega

/-! ### Rounding to F, before overflow -/

/-- The significand to which `roundMag` rounds. -/
def roundSig (num den : Nat) : Nat := roundHalfEven num (den * 2 ^ roundShift (num / den))

/-- The magnitude bits of `roundMag` before they are cut at infinity. -/
def stepMag (num den : Nat) : Nat := roundShift (num / den) * 2 ^ 23 + roundSig num den

theorem roundMag_eq (num den : Nat) : roundMag num den = min infMag (stepMag num den) := rfl

/-- The step leaves a quotient of 24 bits, or of fewer if the step is 0. -/
theorem roundShift_spec (q : Nat) :
    q < 2 ^ 24 * 2 ^ roundShift q ∧ (roundShift q = 0 ∨ 2 ^ 23 * 2 ^ roundShift q ≤ q) := by
  unfold roundShift
  split
  · omega
  · have hq : q ≠ 0 := by omega
    have hlog : 24 ≤ Nat.log2 q := (Nat.le_log2 hq).2 (by omega)
    rw [← Nat.pow_add, ← Nat.pow_add, show 24 + (q.log2 - 23) = q.log2 + 1 by omega,
      show 23 + (q.log2 - 23) = q.log2 by omega]
    exact ⟨Nat.lt_log2_self, .inr (Nat.log2_self_le hq)⟩

section
variable {num den : Nat} (hden : 0 < den)
include hden

theorem step_pos : 0 < den * 2 ^ roundShift (num / den) := Nat.mul_pos hden (Nat.two_pow_pos _)

theorem lt_step : num < 2 ^ 24 * (den * 2 ^ roundShift (num / den)) := by
  have := (Nat.div_lt_iff_lt_mul hden).1 (roundShift_spec (num / den)).1
  rwa [Nat.mul_assoc, Nat.mul_comm _ den] at this

theorem step_le : roundShift (num / den) = 0 ∨ 2 ^ 23 * (den * 2 ^ roundShift (num / den)) ≤ num := by
  refine (roundShift_spec (num / den)).2.imp_right fun h => ?_
  have := (Nat.le_div_iff_mul_le hden).1 h
  rwa [Nat.mul_assoc, Nat.mul_comm _ den] at this

theorem roundSig_le : roundSig num den ≤ 2 ^ 24 := roundHalfEven_le (step_pos hden) (lt_step hden)

theorem le_roundSig : roundShift (num / den) = 0 ∨ 2 ^ 23 ≤ roundSig num den :=
  (step_le hden).imp_right (le_roundHalfEven (step_pos hden))

theorem magUnits_stepMag : magUnits (stepMag num den) = roundSig num den * 2 ^ roundShift (num / den) :=
  magUnits_step _ (roundSig_le hden) (le_roundSig hden)

omit hden in
/-- From 2^(e+23) units on, every magnitude is a multiple of 2^e units. -/
theorem two_pow_dvd_magUnits {e m : Nat} (h : 2 ^ 23 * 2 ^ e ≤ magUnits m) : 2 ^ e ∣ magUnits m := by
  rcases mag_cases m with hm | ⟨e', f, hf, rfl⟩
  · rw [magUnits_subnormal hm] at h
    have := Nat.le_mul_of_pos_right (2 ^ 23) (Nat.two_pow_pos e)
    omega
  · rw [magUnits_normal e' hf] at h ⊢
    have hlt : 2 ^ 23 * 2 ^ e < 2 ^ 23 * 2 ^ (e' + 1) := by
      calc 2 ^ 23 * 2 ^ e ≤ (2 ^ 23 + f) * 2 ^ e' := h
        _ < (2 ^ 23 * 2) * 2 ^ e' := Nat.mul_lt_mul_of_pos_right (by omega) (Nat.two_pow_pos e')
        _ = 2 ^ 23 * 2 ^ (e' + 1) := by ring
    have he : e < e' + 1 := (Nat.pow_lt_pow_iff_right (by decide)).1 (Nat.lt_of_mul_lt_mul_left hlt)
    exact Dvd.dvd.mul_left (Nat.pow_dvd_pow 2 (by omega)) _

/-- No magnitude is nearer to the quotient, and one as near is as large, or the rounded one is even. -/
theorem stepMag_nearest (m : Nat) :
    (((magUnits (stepMag num den) * den : Nat) : Int) - num).natAbs ≤ (((magUnits m * den : Nat) : Int) - num).natAbs
      ∧ ((((magUnits (stepMag num den) * den : Nat) : Int) - num).natAbs
          = (((magUnits m * den : Nat) : Int) - num).natAbs →
        magUnits m = magUnits (stepMag num den) ∨ stepMag num den % 2 = 0) := by
  have hk : magUnits (stepMag num den) * den = roundSig num den * (den * 2 ^ roundShift (num / den)) := by
    rw [magUnits_stepMag hden, Nat.mul_assoc, Nat.mul_comm den]
  have heven : stepMag num den % 2 = roundSig num den % 2 := by
    unfold stepMag
    omega
  have hnear := roundHalfEven_nearest num (step_pos (num := num) hden)
  rw [hk, heven]
  by_cases hdvd : 2 ^ roundShift (num / den) ∣ magUnits m
  · obtain ⟨j, hj⟩ := hdvd
    obtain ⟨hle, htie⟩ := hnear j
    have hc : magUnits m * den = j * (den * 2 ^ roundShift (num / den)) := by
      rw [hj]
      ring
    rw [hc]
    refine ⟨hle, fun h => (htie h).imp_left fun hjk => ?_⟩
    rw [hj, hjk, magUnits_stepMag hden, Nat.mul_comm]
    rfl
  · -- between grid points lie only values below 2^(e+23), a grid point that the quotient reaches
    have hlow : magUnits m < 2 ^ 23 * 2 ^ roundShift (num / den) := by
      by_contra hge
      exact hdvd (two_pow_dvd_magUnits (by omega))
    have hgrid : 2 ^ 23 * (den * 2 ^ roundShift (num / den)) ≤ num := by
      refine (step_le hden).resolve_left fun h0 => hdvd ?_
      rw [h0]
      exact one_dvd _
    have hlt : magUnits m * den < 2 ^ 23 * (den * 2 ^ roundShift (num / den)) := by
      calc magUnits m * den < 2 ^ 23 * 2 ^ roundShift (num / den) * den := Nat.mul_lt_mul_of_pos_right hlow hden
        _ = 2 ^ 23 * (den * 2 ^ roundShift (num / den)) := by ring
    obtain ⟨hle, -⟩ := hnear (2 ^ 23)
    change (((roundSig num den * _ : Nat) : Int) - _).natAbs ≤ _ at hle
    omega

/-- Half a step beyond the largest finite value is where the rounded magnitude reaches infinity's. -/
theorem infMag_le_stepMag_iff : infMag ≤ stepMag num den ↔ overflowUnits * den ≤ num := by
  have hinf := infMag_eq
  have hlt := lt_step (num := num) hden
  have hle := step_le (num := num) hden
  have hsig_le := roundSig_le (num := num) hden
  have hle_sig := le_roundSig (num := num) hden
  have hw : overflowUnits * den = (2 ^ 25 - 1) * (den * 2 ^ 252) := by
    rw [overflowUnits, Nat.mul_assoc, Nat.mul_comm den]
  have hmono {c d : Nat} (h : c ≤ d) : den * 2 ^ c ≤ den * 2 ^ d :=
    Nat.mul_le_mul_left den (Nat.pow_le_pow_right (by decide) h)
  rw [hw, stepMag]
  rcases Nat.lt_trichotomy (roundShift (num / den)) 253 with h | h | h
  · have := hmono (show roundShift (num / den) ≤ 252 by omega)
    omega
  · have hdouble : den * 2 ^ 253 = 2 * (den * 2 ^ 252) := by
      rw [Nat.pow_succ, Nat.mul_comm 2, Nat.mul_assoc]
    rw [← le_roundHalfEven_iff_top num (Nat.mul_pos hden (Nat.two_pow_pos 252)), ← hdouble, ← h]
    change _ ↔ 2 ^ 24 ≤ roundSig num den
    omega
  · have := hmono (show 252 + 2 ≤ roundShift (num / den) by omega)
    rw [Nat.pow_add, ← Nat.mul_assoc] at this
    omega

end

end Sys2Proof.Machine
end

section
/-! SUPPORT. The operations of F are nearest to the exact result (rule R10), and the square root. -/

namespace Sys2Proof.Machine

/-! ### One rounding -/

theorem units_roundUnits (neg : Bool) (num den : Nat) :
    units (roundUnits neg num den)
      = if neg then -(magUnits (roundMag num den) : Int) else (magUnits (roundMag num den) : Int) := by
  rw [units, fsign_roundUnits, fmag_roundUnits]

theorem isFinite_roundUnits (neg : Bool) (num : Nat) {den : Nat} (hden : 0 < den) :
    isFinite (roundUnits neg num den) = true ↔ num < overflowUnits * den := by
  rw [isFinite, decide_eq_true_eq, fmag_roundUnits, roundMag_eq]
  have := infMag_le_stepMag_iff (num := num) hden
  omega

theorem dist_same_sign (neg : Bool) (m n : Nat) :
    ((if neg then -(m : Int) else m) - (if neg then -(n : Int) else n)).natAbs = ((m : Int) - n).natAbs := by
  cases neg
  · rfl
  · simp only [if_true]
    omega

theorem dist_opposite_sign (neg : Bool) (m n : Nat) :
    ((if !neg then -(m : Int) else m) - (if neg then -(n : Int) else n)).natAbs = m + n := by
  cases neg <;> simp only [Bool.not_false, Bool.not_true, Bool.false_eq_true, if_true, if_false] <;> omega

/-- A place `A` that is nearest to a magnitude `N`, also against the place 0, is nearest with `N`'s sign too, whatever
the sign of the other place `C`. -/
theorem signed_nearest {A C N : Nat} {P : Prop} (h : ((A : Int) - N).natAbs ≤ ((C : Int) - N).natAbs
      ∧ (((A : Int) - N).natAbs = ((C : Int) - N).natAbs → C = A ∨ P))
    (h0 : ((A : Int) - N).natAbs ≤ (((0 : Nat) : Int) - N).natAbs
      ∧ (((A : Int) - N).natAbs = (((0 : Nat) : Int) - N).natAbs → 0 = A ∨ P)) (neg neg' : Bool) :
    ((if neg then -(A : Int) else A) - (if neg then -(N : Int) else N)).natAbs
        ≤ ((if neg' then -(C : Int) else C) - (if neg then -(N : Int) else N)).natAbs
      ∧ (((if neg then -(A : Int) else A) - (if neg then -(N : Int) else N)).natAbs
          = ((if neg' then -(C : Int) else C) - (if neg then -(N : Int) else N)).natAbs →
        (if neg' then -(C : Int) else C) = (if neg then -(A : Int) else A) ∨ P) := by
  obtain ⟨hle, htie⟩ := h
  obtain ⟨hle0, htie0⟩ := h0
  rw [dist_same_sign]
  by_cases hneg : neg' = neg
  · rw [hneg, dist_same_sign]
    exact ⟨hle, fun heq => (htie heq).imp_left fun hCA => by rw [hCA]⟩
  · rw [Bool.eq_not.2 hneg, dist_opposite_sign]
    have hN : (((0 : Nat) : Int) - N).natAbs = N := by omega
    rw [hN] at hle0 htie0
    refine ⟨by omega, fun heq => (htie0 (by omega)).imp_left fun hA => ?_⟩
    rw [← hA, show C = 0 by omega]
    simp

theorem eq_sign_natAbs {neg : Bool} {num : Int} (hneg : num ≠ 0 → neg = decide (num < 0)) :
    num = if neg then -(num.natAbs : Int) else (num.natAbs : Int) := by
  by_cases hz : num = 0
  · simp [hz]
  · simp only [hneg hz, decide_eq_true_eq]
    split <;> omega

/-- `roundUnits` rounds an exact quotient, given its sign; the sign of an exact zero is free. -/
theorem roundedTo_roundUnits {neg : Bool} {num : Int} {den : Nat} (hden : 0 < den)
    (hneg : num ≠ 0 → neg = decide (num < 0)) : RoundedTo (roundUnits neg num.natAbs den) num den where
  overflow h := by
    have hmag : roundMag num.natAbs den = infMag :=
      Nat.min_eq_left ((infMag_le_stepMag_iff hden).2 h)
    refine ⟨by rw [isInf, fmag_roundUnits, hmag]; rfl, ?_⟩
    rw [fsign_roundUnits]
    refine hneg fun hz => ?_
    have : 0 < overflowUnits * den := Nat.mul_pos (by decide) hden
    omega
  finite h := (isFinite_roundUnits neg _ hden).2 h
  nearest hfin c _ := by
    have hmag : roundMag num.natAbs den = stepMag num.natAbs den := by
      rw [isFinite, decide_eq_true_eq, fmag_roundUnits, roundMag_eq] at hfin
      rw [roundMag_eq]
      omega
    have hscale (s : Bool) (m : Nat) : (if s then -(magUnits m : Int) else (magUnits m : Int)) * den
        = if s then -((magUnits m * den : Nat) : Int) else ((magUnits m * den : Nat) : Int) := by
      cases s <;> push_cast <;> simp
    have hval (a b : Int) : a = b ↔ a * (den : Int) = b * den :=
      (Int.mul_eq_mul_right_iff (by omega)).symm
    have hcancel (m : Nat) : magUnits m * den = magUnits (stepMag num.natAbs den) * den
        ↔ magUnits m = magUnits (stepMag num.natAbs den) := Nat.mul_left_inj hden.ne'
    have hnear := stepMag_nearest (num := num.natAbs) hden (fmag c)
    have hnear0 := stepMag_nearest (num := num.natAbs) hden 0
    rw [← hcancel] at hnear hnear0
    rw [magUnits_zero, Nat.zero_mul] at hnear0
    have := signed_nearest hnear hnear0 neg (fsign c)
    rw [fmag_roundUnits]
    rwa [← eq_sign_natAbs hneg, ← hscale, ← hscale, ← hval, ← hmag, ← units_roundUnits, ← units] at this

/-! ### The operations on finite operands -/

theorem units_eq (a : Word) : units a = (if fsign a then -1 else 1) * (magUnits (fmag a) : Int) := by
  unfold units
  split <;> simp

theorem roundedTo_roundSum (sa sb : Bool) (n : Int) : RoundedTo (roundSum sa sb n) n 1 := by
  unfold roundSum
  split
  · subst n
    exact roundedTo_roundUnits (num := 0) Nat.one_pos (absurd rfl)
  · exact roundedTo_roundUnits Nat.one_pos fun _ => rfl

theorem roundedTo_fadd {a b : Word} (ha : isFinite a = true) (hb : isFinite b = true) :
    RoundedTo (fadd a b) (units a + units b) 1 := by
  rw [fadd_finite ha hb]
  exact roundedTo_roundSum _ _ _

theorem roundedTo_fsub {a b : Word} (ha : isFinite a = true) (hb : isFinite b = true) :
    RoundedTo (fsub a b) (units a - units b) 1 := by
  rw [fsub_finite ha hb]
  exact roundedTo_roundSum _ _ _

/-- The sign of a product of a signed magnitude and a sign. -/
theorem sign_of_product {sa sb : Bool} {n : Nat}
    (hn : ((if sa then -1 else 1) * (if sb then -1 else 1) * (n : Int)) ≠ 0) :
    (sa != sb) = decide ((if sa then -1 else 1) * (if sb then -1 else 1) * (n : Int) < 0) := by
  have hpos : 0 < n := Nat.pos_of_ne_zero fun h => hn (by simp [h])
  cases sa <;> cases sb <;> simp <;> omega

theorem natAbs_of_product (sa sb : Bool) (n : Nat) :
    ((if sa then -1 else 1) * (if sb then -1 else 1) * (n : Int)).natAbs = n := by
  cases sa <;> cases sb <;> simp

/-- Rounding a quotient whose sign is the product of two. -/
theorem roundedTo_signs (sa sb : Bool) (n : Nat) {den : Nat} (hden : 0 < den) :
    RoundedTo (roundUnits (sa != sb) n den) ((if sa then -1 else 1) * (if sb then -1 else 1) * (n : Int)) den := by
  have := roundedTo_roundUnits hden (sign_of_product (sa := sa) (sb := sb) (n := n))
  rwa [natAbs_of_product] at this

theorem roundedTo_fmul {a b : Word} (ha : isFinite a = true) (hb : isFinite b = true) :
    RoundedTo (fmul a b) (units a * units b) (2 ^ 149) := by
  rw [fmul_finite ha hb, units_eq a, units_eq b, mul_mul_mul_comm, ← Nat.cast_mul]
  exact roundedTo_signs _ _ _ (Nat.two_pow_pos 149)

theorem roundedTo_fdiv {a b : Word} (ha : isFinite a = true) (hb : isFinite b = true) (hz : isZero b = false) :
    RoundedTo (fdiv a b) (units a * 2 ^ 149 * (if fsign b = true then -1 else 1)) (units b).natAbs := by
  have hden : 0 < magUnits (fmag b) := by
    rw [Nat.pos_iff_ne_zero, ne_eq, magUnits_eq_zero]
    simpa [isZero] using hz
  have hnum : units a * 2 ^ 149 * (if fsign b = true then -1 else 1)
      = (if fsign a then -1 else 1) * (if fsign b then -1 else 1) * ((magUnits (fmag a) * 2 ^ 149 : Nat) : Int) := by
    rw [units_eq]
    push_cast
    ring
  rw [fdiv_finite ha hb hz, units_natAbs, hnum]
  exact roundedTo_signs _ _ _ hden

theorem roundedTo_i2f (n : Int) : RoundedTo (i2f n) (n * 2 ^ 149) 1 := by
  have hpow : (0 : Int) < 2 ^ 149 := by decide
  have hneg : n < 0 ↔ n * 2 ^ 149 < 0 := by omega
  have := roundedTo_roundUnits (num := n * 2 ^ 149) Nat.one_pos fun _ => rfl
  rwa [Int.natAbs_mul, decide_eq_decide.2 hneg.symm] at this

theorem finiteArithmetic : FiniteArithmetic :=
  ⟨fun _ _ ha hb => ⟨roundedTo_fadd ha hb, roundedTo_fsub ha hb, roundedTo_fmul ha hb, roundedTo_fdiv ha hb⟩,
    roundedTo_i2f⟩

/-! ### The square root -/

/-- One digit: what is found stays a root from below, and the next bit bounds what is left. -/
theorem sqrtBit_spec {n k r : Nat} (hlo : r * r ≤ n) (hhi : n < (r + 2 ^ (k + 1)) * (r + 2 ^ (k + 1))) :
    sqrtBit n k r * sqrtBit n k r ≤ n ∧ n < (sqrtBit n k r + 2 ^ k) * (sqrtBit n k r + 2 ^ k) := by
  unfold sqrtBit
  split
  · refine ⟨‹_›, ?_⟩
    rwa [Nat.add_assoc, ← Nat.two_mul, ← Nat.pow_succ']
  · exact ⟨hlo, by omega⟩

theorem sqrtDigits_spec (n k : Nat) : ∀ r, r * r ≤ n → n < (r + 2 ^ k) * (r + 2 ^ k) →
    sqrtDigits n k r * sqrtDigits n k r ≤ n ∧ n < (sqrtDigits n k r + 1) * (sqrtDigits n k r + 1) := by
  induction k with
  | zero => exact fun r hlo hhi => ⟨hlo, hhi⟩
  | succ k ih =>
    intro r hlo hhi
    obtain ⟨hlo', hhi'⟩ := sqrtBit_spec hlo hhi
    exact ih _ hlo' hhi'

/-- `natSqrt` is the whole part of the square root. -/
theorem natSqrt_eq_sqrt (n : Nat) : natSqrt n = Nat.sqrt n := by
  have htop : n < (0 + 2 ^ (Nat.log2 n / 2 + 1)) * (0 + 2 ^ (Nat.log2 n / 2 + 1)) := by
    rw [Nat.zero_add, ← Nat.pow_add]
    exact Nat.lt_log2_self.trans_le (Nat.pow_le_pow_right (by decide) (by omega))
  obtain ⟨hlo, hhi⟩ := sqrtDigits_spec n _ 0 (Nat.zero_le n) htop
  exact Nat.eq_sqrt.2 ⟨hlo, hhi⟩

/-- Twice the root `√n`, or a half more where there is a remainder: what `fsqrt` rounds. -/
def rootQuarters (n : Nat) : Nat := if natSqrt n * natSqrt n = n then 2 * natSqrt n else 2 * natSqrt n + 1

theorem fsqrt_finite {a : Word} (ha : isFinite a = true) (hs : fsign a = false) :
    fsqrt a = roundUnits false (rootQuarters (magUnits (fmag a) * 2 ^ 151)) 4 := by
  by_cases hz : isZero a = true
  · obtain rfl | rfl := (isZero_iff a).1 hz
    · decide +kernel
    · exact absurd hs (by decide)
  · simp [fsqrt, isNaN_of_isFinite ha, isInf_of_isFinite ha, hs, hz, rootQuarters]

/-- An integer is at most `√n` exactly if its double is at most the quarters that stand for `√n`. -/
theorem sq_le_iff_rootQuarters (n x : Nat) : x ^ 2 ≤ n ↔ 2 * x ≤ rootQuarters n := by
  rw [rootQuarters, natSqrt_eq_sqrt, ← Nat.le_sqrt']
  split <;> omega

theorem le_sq_iff_rootQuarters (n x : Nat) : n ≤ x ^ 2 ↔ rootQuarters n ≤ 2 * x := by
  rw [rootQuarters, natSqrt_eq_sqrt]
  split
  · rename_i h
    constructor
    · intro hn
      have := Nat.sqrt_le_sqrt hn
      rw [Nat.sqrt_eq'] at this
      omega
    · intro hx
      rw [← h, ← Nat.pow_two]
      exact Nat.pow_le_pow_left (by omega) 2
  · rename_i h
    have hlt : n.sqrt ^ 2 < n := by
      have := Nat.sqrt_le n
      rw [Nat.pow_two]
      omega
    constructor
    · intro hn
      have := (Nat.pow_lt_pow_iff_left (by decide)).1 (hlt.trans_le hn)
      omega
    · intro hx
      exact (Nat.sqrt_lt'.1 (by omega)).le

theorem rootQuarters_le_two_pow {m c : Nat} (h : 24 + m / 2 ^ 23 + 151 ≤ 2 * c) :
    rootQuarters (magUnits m * 2 ^ 151) ≤ 2 * 2 ^ c := by
  rw [← le_sq_iff_rootQuarters]
  calc magUnits m * 2 ^ 151 ≤ 2 ^ (24 + m / 2 ^ 23) * 2 ^ 151 :=
        Nat.mul_le_mul_right _ (magUnits_lt_two_pow le_rfl).le
    _ = 2 ^ (24 + m / 2 ^ 23 + 151) := (Nat.pow_add 2 _ 151).symm
    _ ≤ 2 ^ (2 * c) := Nat.pow_le_pow_right (by decide) h
    _ = (2 ^ c) ^ 2 := by rw [← Nat.pow_mul, Nat.mul_comm]

/-- No root overflows. -/
theorem rootQuarters_lt {m : Nat} (h : m < infMag) : rootQuarters (magUnits m * 2 ^ 151) < overflowUnits * 4 := by
  have hinf := infMag_eq
  exact (rootQuarters_le_two_pow (c := 215) (by omega)).trans_lt (by decide)

/-- The square root of a finite value that is not negative is the nearest finite value. -/
theorem fsqrt_nearest {a : Word} (ha : isFinite a = true) (hs : fsign a = false) :
    isFinite (fsqrt a) = true ∧ fsign (fsqrt a) = false ∧ ∀ c : Word, isFinite c = true → fsign c = false →
      (units c < units (fsqrt a) → (units c + units (fsqrt a)) ^ 2 ≤ 4 * units a * 2 ^ 149)
        ∧ (units (fsqrt a) < units c → 4 * units a * 2 ^ 149 ≤ (units c + units (fsqrt a)) ^ 2) := by
  have hround := roundedTo_roundUnits (neg := false) (num := rootQuarters (magUnits (fmag a) * 2 ^ 151))
    (show 0 < 4 by decide) (by simp)
  rw [Int.natAbs_natCast, ← fsqrt_finite ha hs] at hround
  have hfin : isFinite (fsqrt a) = true :=
    hround.finite (by
      rw [Int.natAbs_natCast]
      exact rootQuarters_lt (by simpa [isFinite] using ha))
  have hsign : fsign (fsqrt a) = false := by rw [fsqrt_finite ha hs, fsign_roundUnits]
  refine ⟨hfin, hsign, fun c hc hcs => ?_⟩
  obtain ⟨n, hn⟩ : ∃ n, magUnits (fmag a) * 2 ^ 151 = n := ⟨_, rfl⟩
  obtain ⟨hnear, -⟩ := hround.nearest hfin c hc
  have hpos {x : Word} (hx : fsign x = false) : units x = magUnits (fmag x) := by
    rw [units, hx, if_neg Bool.false_ne_true]
  have hrad : 4 * units a * 2 ^ 149 = ((magUnits (fmag a) * 2 ^ 151 : Nat) : Int) := by
    rw [hpos hs]
    push_cast
    ring
  have hsq (x n : Nat) : ((x : Int) ^ 2 ≤ n ↔ x ^ 2 ≤ n) ∧ ((n : Int) ≤ (x : Int) ^ 2 ↔ n ≤ x ^ 2) := by
    rw [← Nat.cast_pow, Int.ofNat_le, Int.ofNat_le]
    exact ⟨Iff.rfl, Iff.rfl⟩
  rw [hn] at hnear hrad
  rw [hpos hsign, hpos hcs] at hnear ⊢
  rw [hrad, ← Nat.cast_add, (hsq _ _).1, (hsq _ _).2, sq_le_iff_rootQuarters, le_sq_iff_rootQuarters]
  omega

theorem squareRoot : SquareRoot := by
  refine ⟨fun a => fsqrt_nearest, fun a => ⟨fun hz => ?_, fun hs hz => ?_, fun hn => ?_, fun hi hs => ?_⟩⟩
  · rw [fsqrt, isNaN_of_isFinite (isFinite_of_isZero hz), if_neg Bool.false_ne_true, if_pos hz]
  · rw [fsqrt, hz, hs, if_neg Bool.false_ne_true, if_pos rfl, ite_self]
    exact isNaN_nanOf _ _ _
  · rw [fsqrt, if_pos hn]
    exact isNaN_nanOf _ _ _
  · simp [fsqrt, isNaN_of_isInf hi, isZero_of_isInf hi, hs, hi]

end Sys2Proof.Machine

namespace Sys2Proof.Scope

/-- Settles O57: the operations round to nearest, the special operands, the comparisons, each proved above. -/
theorem arithmeticRoundsToNearest : Obligations.ArithmeticRoundsToNearest :=
  ⟨Machine.finiteArithmetic, Machine.squareRoot, Machine.specialOperands, Machine.comparisons⟩

end Sys2Proof.Scope
end

section
/-! SUPPORT. ATAN2PI and CIS: their exact points, range and period in every numeric configuration (rule R13). -/

namespace Sys2Proof.Machine

/-! ### Signs as comparisons with zero -/

theorem flt_fzero_left_iff (x : Word) :
    flt fzero x = true ↔ isNaN x = false ∧ isZero x = false ∧ fsign x = false := by
  have hz : forder fzero = 0 := by decide
  have hn : isNaN fzero = false := by decide
  simp only [flt, hz, hn, isZero, Bool.not_false, Bool.true_and, Bool.and_eq_true, Bool.not_eq_true',
    decide_eq_true_eq, decide_eq_false_iff_not]
  unfold forder
  cases fsign x
  · simp [Nat.pos_iff_ne_zero]
  · simp

theorem flt_fzero_right_iff (x : Word) :
    flt x fzero = true ↔ isNaN x = false ∧ isZero x = false ∧ fsign x = true := by
  have hz : forder fzero = 0 := by decide
  have hn : isNaN fzero = false := by decide
  simp only [flt, hz, hn, isZero, Bool.not_false, Bool.and_true, Bool.and_eq_true, Bool.not_eq_true',
    decide_eq_true_eq, decide_eq_false_iff_not]
  unfold forder
  cases fsign x
  · simp
  · simp [Nat.pos_iff_ne_zero]

/-! ### ATAN2PI, branch by branch -/

theorem atan2pi_nan (num : Config.Num) {y x : Word} (h : isNaN y = true ∨ isNaN x = true) :
    isNaN (atan2pi num y x) = true := by
  rw [atan2pi.eq_def, if_pos (by simpa using h)]
  exact isNaN_nanOf _ _ _

theorem atan2pi_zero_zero (num : Config.Num) {y x : Word} (hy : isZero y = true) (hx : isZero x = true) :
    atan2pi num y x = fzero := by
  simp [atan2pi, isNaN_of_isFinite, isFinite_of_isZero, hy, hx]

theorem atan2pi_zero_pos (num : Config.Num) {y x : Word} (hy : isZero y = true) (hx : flt fzero x = true) :
    atan2pi num y x = fzero := by
  obtain ⟨hn, -, hs⟩ := (flt_fzero_left_iff x).1 hx
  simp [atan2pi, isNaN_of_isFinite, isFinite_of_isZero, hy, hn, hs]

theorem atan2pi_zero_neg (num : Config.Num) {y x : Word} (hy : isZero y = true) (hx : flt x fzero = true) :
    atan2pi num y x = if fsign y = true then fneg fone else fone := by
  obtain ⟨hn, hz, hs⟩ := (flt_fzero_right_iff x).1 hx
  simp [atan2pi, isNaN_of_isFinite, isFinite_of_isZero, hy, hn, hz, hs]

theorem atan2pi_nonzero_zero (num : Config.Num) {y x : Word} (hn : isNaN y = false) (hy : isZero y = false)
    (hx : isZero x = true) : atan2pi num y x = if fsign y = true then fneg fhalf else fhalf := by
  simp [atan2pi, isNaN_of_isFinite, isFinite_of_isZero, hx, hn, hy]

/-- Off the axes an operand that is infinite selects the limiting direction. -/
theorem atan2pi_reference_inf {y x : Word} (hny : isNaN y = false) (hnx : isNaN x = false) (hy : isZero y = false)
    (hx : isZero x = false) (hinf : (isFinite y && isFinite x) = false) :
    atan2pi .reference y x = intoUnitRange (atan2piInf y x) := by
  simp only [atan2pi, hny, hnx, hy, hx, hinf, Bool.or_self, Bool.and_false, Bool.false_and, Bool.false_eq_true,
    if_false]

/-! ### The range -/

theorem fmag_intoUnitRange_le (w : Word) : fmag (intoUnitRange w) ≤ fmag fone := by
  unfold intoUnitRange
  split
  · assumption
  · rw [fmag, BitVec.toNat_and, Nat.and_mod_two_pow]
    exact Nat.and_le_right.trans (by decide)

theorem intoUnitRange_of_le {w : Word} (h : fmag w ≤ fmag fone) : intoUnitRange w = w := if_pos h

theorem fmag_ite_fneg (c : Bool) (w : Word) : fmag (if c = true then fneg w else w) = fmag w := by
  cases c
  · rfl
  · exact fmag_fneg w

theorem fmag_atan2pi_le (num : Config.Num) {y x : Word} (hy : isNaN y = false) (hx : isNaN x = false) :
    fmag (atan2pi num y x) ≤ fmag fone := by
  rw [atan2pi.eq_def, hy, hx, if_neg (by decide)]
  split
  · decide
  split
  · decide
  split
  · rw [fmag_ite_fneg]
    decide
  split
  · rw [fmag_ite_fneg]
  · exact fmag_intoUnitRange_le _

/-- A magnitude of at most 1 is a value from -1 to 1. -/
theorem fle_fone_of_fmag_le {w : Word} (h : fmag w ≤ fmag fone) :
    fle (fneg fone) w = true ∧ fle w fone = true := by
  have hone : fmag fone = 127 * 2 ^ 23 := by decide
  have hnan : isNaN w = false := decide_eq_false (by rw [infMag_eq]; omega)
  have hlo : forder (fneg fone) = -(127 * 2 ^ 23) ∧ isNaN (fneg fone) = false := by decide
  have hhi : forder fone = 127 * 2 ^ 23 ∧ isNaN fone = false := by decide
  simp only [fle, hlo, hhi, hnan, Bool.not_false, Bool.true_and, decide_eq_true_eq]
  unfold forder
  split <;> omega

/-! ### Infinite operands -/

theorem atan2pi_finite_posInf {y x : Word} (hy : isFinite y = true) (hx : isInf x = true) (hs : flt fzero x = true) :
    atan2pi .reference y x = fzero := by
  by_cases hz : isZero y = true
  · exact atan2pi_zero_pos _ hz hs
  · obtain ⟨hn, hxz, hsx⟩ := (flt_fzero_left_iff x).1 hs
    rw [atan2pi_reference_inf (isNaN_of_isFinite hy) hn (by simpa using hz) hxz
      (by rw [isFinite_of_isInf hx, Bool.and_false])]
    simp only [atan2piInf, hy, hsx, Bool.not_false, Bool.and_self, if_true]
    exact intoUnitRange_of_le (by decide)

theorem atan2pi_finite_negInf {y x : Word} (hy : isFinite y = true) (hx : isInf x = true) (hs : flt x fzero = true) :
    atan2pi .reference y x = if fsign y = true then fneg fone else fone := by
  by_cases hz : isZero y = true
  · exact atan2pi_zero_neg _ hz hs
  · obtain ⟨hn, hxz, hsx⟩ := (flt_fzero_right_iff x).1 hs
    rw [atan2pi_reference_inf (isNaN_of_isFinite hy) hn (by simpa using hz) hxz
      (by rw [isFinite_of_isInf hx, Bool.and_false])]
    simp only [atan2piInf, isInf_of_isFinite hy, hsx, Bool.not_true, Bool.and_false, Bool.false_eq_true, if_false]
    exact intoUnitRange_of_le (fmag_ite_fneg _ _).le

theorem atan2pi_inf_finite {y x : Word} (hy : isInf y = true) (hx : isFinite x = true) :
    atan2pi .reference y x = if fsign y = true then fneg fhalf else fhalf := by
  have hny := isNaN_of_isInf hy
  have hzy := isZero_of_isInf hy
  by_cases hz : isZero x = true
  · exact atan2pi_nonzero_zero _ hny hzy hz
  · rw [atan2pi_reference_inf hny (isNaN_of_isFinite hx) hzy (by simpa using hz)
      (by rw [isFinite_of_isInf hy, Bool.false_and])]
    simp only [atan2piInf, hy, isInf_of_isFinite hx, isFinite_of_isInf hy, Bool.false_and, Bool.false_eq_true, if_false,
      if_true]
    exact intoUnitRange_of_le ((fmag_ite_fneg _ _).le.trans (by decide))

theorem atan2pi_inf_inf {y x : Word} (hy : isInf y = true) (hx : isInf x = true) :
    units (atan2pi .reference y x) * 4
      = (if fsign y = true then -1 else 1) * (if fsign x = true then 3 else 1) * 2 ^ 149 := by
  rw [atan2pi_reference_inf (isNaN_of_isInf hy) (isNaN_of_isInf hx) (isZero_of_isInf hy) (isZero_of_isInf hx)
    (by rw [isFinite_of_isInf hx, Bool.and_false])]
  simp only [atan2piInf, hy, hx, isFinite_of_isInf hy, Bool.false_and, Bool.false_eq_true, if_false, if_true]
  cases fsign y <;> cases fsign x <;> decide +kernel

/-! ### CIS -/

/-- A common factor of numerator and denominator changes nothing (rule R13). -/
theorem cis_scale (num : Config.Num) (n : Int) {d k : Nat} (hd : 0 < d) (hk : 0 < k) :
    cis num (k * n) (k * d) = cis num n d := by
  have hr : ((k * n) % ((k * d : Nat) : Int)).toNat = k * (n % (d : Int)).toNat := by
    obtain ⟨r, hr⟩ := Int.eq_ofNat_of_zero_le (Int.emod_nonneg n (show (d : Int) ≠ 0 by omega))
    rw [Nat.cast_mul, Int.mul_emod_mul_of_pos _ _ (by omega), hr, ← Nat.cast_mul, Int.toNat_natCast, Int.toNat_natCast]
  simp only [cis, hr, Nat.gcd_mul_left, Nat.mul_div_mul_left _ _ hk]

/-- A whole turn more changes nothing (rule R13). -/
theorem cis_add_turn (num : Config.Num) (n : Int) (d : Nat) : cis num (n + d) d = cis num n d := by
  simp only [cis, Int.add_emod_right]

end Sys2Proof.Machine

namespace Sys2Proof.Scope

open Machine

/-- Settles O31, by the branches of ATAN2PI. -/
theorem angleExactPoints : Obligations.AngleExactPoints := by
  refine ⟨fun num y x => ⟨atan2pi_zero_zero num, atan2pi_zero_pos num, fun hx hy => ?_, fun hx hy => ?_, fun hx => ?_,
    atan2pi_nan num, fun hy hx => fle_fone_of_fmag_le (fmag_atan2pi_le num hy hx)⟩,
    fun y x => ⟨atan2pi_finite_posInf, atan2pi_finite_negInf, atan2pi_inf_finite, atan2pi_inf_inf⟩⟩
  · obtain ⟨hn, hz, hs⟩ := (flt_fzero_left_iff y).1 hy
    simpa [hs] using atan2pi_nonzero_zero num hn hz hx
  · obtain ⟨hn, hz, hs⟩ := (flt_fzero_right_iff y).1 hy
    simpa [hs] using atan2pi_nonzero_zero num hn hz hx
  · exact ⟨atan2pi_zero_neg num (by decide) hx, atan2pi_zero_neg num (by decide) hx⟩

/-- Settles O32: the four quarter turns are a common factor `d` away from the turns n/4; the period and the common
factor are those of the reduced fraction. -/
theorem turnExactPoints : Obligations.TurnExactPoints := by
  intro num n d hd
  have quarter (i : Nat) : cis num (i * d : Nat) (4 * d) = cis num i 4 := by
    rw [Nat.mul_comm i, Nat.mul_comm 4, Nat.cast_mul, cis_scale num _ (by decide) hd]
  refine ⟨?_, ?_, quarter 2, quarter 3, cis_add_turn num n d, fun k hk => cis_scale num n hd hk⟩
  · simpa [cisReduced, cis] using cis_scale num 0 Nat.one_pos hd
  · have := quarter 1
    rwa [Nat.one_mul] at this

end Sys2Proof.Scope
end

section
/-! SUPPORT. INIT's checks say what rules R232 and R233 say over the registers' bits, and what INIT does when
they hold. -/

namespace Sys2Proof.Machine

/-! ### Bit fields -/

theorem and_eq_zero_iff (w m : Word) : w &&& m = 0#32 ↔ ∀ i, m.getLsbD i = true → w.getLsbD i = false := by
  constructor
  · intro h i hi
    have := congrArg (BitVec.getLsbD · i) h
    simpa [hi] using this
  · intro h
    apply BitVec.eq_of_getLsbD_eq
    intro i _
    cases hm : m.getLsbD i
    · simp [hm]
    · simp [h i hm]

theorem toNat_lt_two_pow_iff (w : Word) (n : Nat) : w.toNat < 2 ^ n ↔ ∀ i, n ≤ i → w.getLsbD i = false :=
  ⟨fun h _ hi => Nat.testBit_lt_two_pow (h.trans_le (Nat.pow_le_pow_right (by decide) hi)),
    Nat.lt_pow_two_of_testBit _⟩

/-- The reserved bits of CFG_FMT are 7:6 and 31:10 (rule R29). -/
theorem fmt_reserved_iff (w : Word) : w &&& 0xFFFFFCC0#32 = 0#32
    ↔ w.getLsbD 6 = false ∧ w.getLsbD 7 = false ∧ w.toNat < 2 ^ 10 := by
  have hmask : ∀ i < 32, (0xFFFFFCC0#32 : Word).getLsbD i = true ↔ i = 6 ∨ i = 7 ∨ 10 ≤ i := by decide
  rw [and_eq_zero_iff, toNat_lt_two_pow_iff]
  constructor
  · intro h
    refine ⟨h 6 (by decide), h 7 (by decide), fun i hi => ?_⟩
    by_cases hlt : i < 32
    · exact h i ((hmask i hlt).2 (.inr (.inr hi)))
    · exact BitVec.getLsbD_of_ge w i (by omega)
  · rintro ⟨h6, h7, h10⟩ i hi
    rcases (hmask i (BitVec.lt_of_getLsbD hi)).1 hi with rfl | rfl | hle
    · exact h6
    · exact h7
    · exact h10 i hle

/-- The reserved bits of CFG_MODE are 31:7 (rule R30). -/
theorem mode_reserved_iff (w : Word) : w &&& 0xFFFFFF80#32 = 0#32 ↔ w.toNat < 2 ^ 7 := by
  have hmask : ∀ i < 32, (0xFFFFFF80#32 : Word).getLsbD i = true ↔ 7 ≤ i := by decide
  rw [and_eq_zero_iff, toNat_lt_two_pow_iff]
  constructor
  · intro h i hi
    by_cases hlt : i < 32
    · exact h i ((hmask i hlt).2 hi)
    · exact BitVec.getLsbD_of_ge w i (by omega)
  · exact fun h i hi => h i ((hmask i (BitVec.lt_of_getLsbD hi)).1 hi)

/-! ### Sizes -/

/-- M is at most a power of two exactly if that is at least 2 and 3·H·sps (rule R232). -/
theorem bufferLen_le_iff (c : Cfg) (e : Nat) :
    c.bufferLen ≤ 2 ^ e ↔ 1 ≤ e ∧ 3 * c.hdrLen.toNat * c.sps.toNat ≤ 65536 * 2 ^ e := by
  have hreq : c.requiredLen ≤ 2 ^ e ↔ 1 ≤ e ∧ 3 * c.hdrLen.toNat * c.sps.toNat ≤ 65536 * 2 ^ e := by
    have htwo : 2 ≤ 2 ^ e ↔ 1 ≤ e := Nat.pow_le_pow_iff_right (a := 2) (n := 1) (by decide)
    rw [Cfg.requiredLen, max_le_iff, htwo]
    omega
  rw [← hreq, Cfg.bufferLen, Nat.pow_le_pow_iff_right (a := 2) (by decide)]
  exact ⟨fun h => (le_ceilLog2 _).trans (Nat.pow_le_pow_right (by decide) h), ceilLog2_le _ _⟩

theorem rotationGcd_of_decim {c : Cfg} (h : c.decim = true) :
    c.rotationGcd = Nat.gcd (c.sr.toNat * c.decm.toNat) c.rotw.toNat := by
  simp [Cfg.rotationGcd, Cfg.inputRate, Cfg.decimation, h]

theorem rotationLen_of_decim {c : Cfg} (h : c.decim = true) : c.rotationLen
    = c.sr.toNat * c.decm.toNat / Nat.gcd (c.sr.toNat * c.decm.toNat) c.rotw.toNat := by
  rw [Cfg.rotationLen, rotationGcd_of_decim h, Cfg.inputRate, Cfg.decimation, if_pos h]

/-! ### The conditions of rule R232 -/

theorem iqStereoOk_iff (c : Cfg) : c.iqStereoOk = true ↔ (c.mode.getLsbD 0 = true → c.fmt.getLsbD 8 = true) := by
  simp only [Cfg.iqStereoOk, Cfg.iq, Cfg.stereo, bitOf]
  cases c.mode.getLsbD 0 <;> simp

theorem realModeOk_iff (c : Cfg) : c.realModeOk = true ↔ (c.mode.getLsbD 0 = false → c.mode.getLsbD 1 = false
    ∧ c.mode.getLsbD 2 = false ∧ c.mode.getLsbD 3 = false ∧ c.mode.getLsbD 4 = false) := by
  simp only [Cfg.realModeOk, Cfg.iq, Cfg.derot, Cfg.lpIq, Cfg.lpFm, Cfg.decim, bitOf]
  cases c.mode.getLsbD 0 <;> simp [and_assoc]

theorem symbolsOk_iff (c : Cfg) : c.symbolsOk = true ↔ (c.symLen = 1#32 ∨ c.symLen = 2#32) := by
  simp [Cfg.symbolsOk, BitVec.toNat_eq]

theorem iqTapsOk_iff (s : State) : s.iqTapsOk = true
    ↔ (s.cfg.mode.getLsbD 2 = true → s.size.taps1 = s.size.taps2 ∧ 1 ≤ s.size.taps1.toNat) := by
  simp only [State.iqTapsOk, Cfg.lpIq, bitOf]
  cases s.cfg.mode.getLsbD 2 <;> simp

theorem fmTapsOk_iff (s : State) : s.fmTapsOk = true
    ↔ (s.cfg.mode.getLsbD 3 = true → 1 ≤ s.size.taps3.toNat) := by
  simp only [State.fmTapsOk, Cfg.lpFm, bitOf]
  cases s.cfg.mode.getLsbD 3 <;> simp

theorem decimationOk_iff (s : State) : s.decimationOk = true ↔ (s.cfg.mode.getLsbD 4 = true →
    1 ≤ s.cfg.decm.toNat ∧ 1 ≤ s.size.taps0.toNat ∧ 1 ≤ s.cfg.rotw.toNat
      ∧ (Nat.gcd (s.cfg.sr.toNat * s.cfg.decm.toNat) s.cfg.rotw.toNat : Int) ∣ s.cfg.rotf.toInt
      ∧ s.size.taps0.toNat * (s.cfg.sr.toNat * s.cfg.decm.toNat
          / Nat.gcd (s.cfg.sr.toNat * s.cfg.decm.toNat) s.cfg.rotw.toNat) < 2 ^ 32) := by
  change s.decimationOk = true ↔ (s.cfg.decim = true → _)
  cases h : s.cfg.decim
  · simp [State.decimationOk, h]
  · simp only [State.decimationOk, h, rotationGcd_of_decim h, rotationLen_of_decim h, s32, Int.dvd_iff_emod_eq_zero,
      Bool.not_true, Bool.false_or, Bool.and_eq_true, decide_eq_true_eq, forall_const, and_assoc]

theorem strideOk_iff (c : Cfg) : c.strideOk = true ↔ 1 ≤ c.k.toNat ∧ ∀ e : Nat, 1 ≤ e →
    3 * c.hdrLen.toNat * c.sps.toNat ≤ 65536 * 2 ^ e →
    c.k.toNat + (c.hdrLen.toNat * c.sps.toNat + 32768) / 65536 + c.delay.toNat ≤ 2 ^ e := by
  rw [Cfg.strideOk, decide_eq_true_eq, Cfg.templateLen]
  refine and_congr_right fun _ => ⟨fun h e he hreq => h.trans ((bufferLen_le_iff c e).2 ⟨he, hreq⟩), fun h => ?_⟩
  obtain ⟨he, hreq⟩ := (bufferLen_le_iff c (ceilLog2 c.requiredLen)).1 le_rfl
  exact h _ he hreq

/-- INIT's check of the configuration is rule R232's. -/
theorem configValid_iff (s : State) : s.configValid = true ↔ s.ConfigLegal := by
  have hfmt : s.cfg.formatOk = true ↔ (s.cfg.fmt.toNat % 64 = 8 ∨ s.cfg.fmt.toNat % 64 = 16 ∨ s.cfg.fmt.toNat % 64 = 32)
      ∧ s.cfg.fmt.getLsbD 6 = false ∧ s.cfg.fmt.getLsbD 7 = false ∧ s.cfg.fmt.toNat < 2 ^ 10 := by
    rw [Cfg.formatOk, decide_eq_true_eq, fmt_reserved_iff]
    rfl
  have hbt : s.cfg.btOk = true ↔ isFinite s.cfg.bt = true ∧ flt fzero s.cfg.bt = true := by
    rw [Cfg.btOk, Bool.and_eq_true]
  have hrate : s.cfg.inputRateOk = true
      ↔ s.cfg.sr.toNat * (if s.cfg.mode.getLsbD 4 = true then s.cfg.decm.toNat else 1) < 2 ^ 31 := by
    rw [Cfg.inputRateOk, decide_eq_true_eq]
    rfl
  simp only [State.configValid, Bool.and_eq_true, State.rateOk, hfmt, Cfg.modeReservedOk, mode_reserved_iff,
    iqStereoOk_iff, realModeOk_iff, Cfg.spsOk, Cfg.headerOk, symbolsOk_iff, hbt, Cfg.loopGainOk, iqTapsOk_iff,
    fmTapsOk_iff, decimationOk_iff, hrate, strideOk_iff, decide_eq_true_eq]
  constructor
  · rintro ⟨⟨⟨⟨⟨⟨⟨⟨⟨⟨⟨⟨⟨⟨rate, format⟩, mode⟩, stereo⟩, realMode⟩, sps⟩, header⟩, symbols⟩, bt⟩, loopGain⟩, iqTaps⟩,
      fmTaps⟩, decimation⟩, inputRate⟩, stride⟩
    exact ⟨rate, format, mode, stereo, realMode, sps, header, symbols, bt, loopGain, iqTaps, fmTaps, decimation,
      inputRate, stride⟩
  · rintro ⟨rate, format, mode, stereo, realMode, sps, header, symbols, bt, loopGain, iqTaps, fmTaps, decimation,
      inputRate, stride⟩
    exact ⟨⟨⟨⟨⟨⟨⟨⟨⟨⟨⟨⟨⟨⟨rate, format⟩, mode⟩, stereo⟩, realMode⟩, sps⟩, header⟩, symbols⟩, bt⟩, loopGain⟩, iqTaps⟩,
      fmTaps⟩, decimation⟩, inputRate⟩, stride⟩

/-- INIT's check of the capacities is rule R233's. -/
theorem capacityOk_iff (s : State) : s.capacityOk = true ↔ s.CapacityLegal := by
  have hbuf : s.cfg.bufferLen ≤ s.inst.nMax ↔ 2 ≤ 2 ^ s.inst.log2nMax
      ∧ 3 * s.cfg.hdrLen.toNat * s.cfg.sps.toNat ≤ 65536 * 2 ^ s.inst.log2nMax := by
    rw [Config.Params.nMax, bufferLen_le_iff, ← Nat.pow_le_pow_iff_right (a := 2) (n := 1) (by decide), Nat.pow_one]
  have hrot : (!s.cfg.decim || decide (s.cfg.rotationLen ≤ s.inst.rotMax)) = true ↔ (s.cfg.mode.getLsbD 4 = true →
      s.cfg.sr.toNat * s.cfg.decm.toNat / Nat.gcd (s.cfg.sr.toNat * s.cfg.decm.toNat) s.cfg.rotw.toNat
        ≤ s.inst.rotMax) := by
    change _ ↔ (s.cfg.decim = true → _)
    cases h : s.cfg.decim
    · simp
    · simp [rotationLen_of_decim h]
  simp only [State.capacityOk, Bool.and_eq_true, hrot, hbuf, decide_eq_true_eq]
  exact ⟨fun ⟨⟨header, buffer⟩, rotation⟩ => ⟨header, buffer, rotation⟩,
    fun ⟨header, buffer, rotation⟩ => ⟨⟨header, buffer⟩, rotation⟩⟩

/-! ### A successful INIT -/

/-- INIT with a valid configuration within the capacities opens a session (rule R234). -/
theorem exec_init_of_legal {s : State} (hf : s.status.fault = false) (hu : s.status.session = .uninit)
    (hc : s.ConfigLegal) (hk : s.CapacityLegal) :
    exec .init s = .next (s.beginCommand.openSession.endCommand rcOk) := by
  have hvalid : s.beginCommand.configValid = true := (configValid_iff s).2 hc
  have hcap : s.beginCommand.capacityOk = true := (capacityOk_iff s).2 hk
  have hlegal : legalIn .init s.status.session = true := decide_eq_true hu
  change runCommand .init initBody s = _
  rw [runCommand_run .init initBody s hf rfl hlegal, initBody, hvalid, hcap, if_neg (by decide), if_neg (by decide),
    finishCommand_ret]

end Sys2Proof.Machine
end

section
/-! SUPPORT. Tables of rounded reals entry by entry (rule R12), and the exact points of the windows (rule R107). -/

namespace Sys2Proof.Machine

/-! ### Tables entry by entry -/

/-- One entry of `roundTable`: the first precision that decides it. -/
def roundEntry (key : List Nat) (g : Prec → Option Encl) : List Nat → Option Word
  | [] => none
  | p :: ps => (roundOpt p key (g (Prec.ofBits p))).orElse (fun _ => roundEntry key g ps)

theorem roundEntry_of_first {key : List Nat} {g : Prec → Option Encl} {p : Nat} {v : Word}
    (h : roundOpt p key (g (Prec.ofBits p)) = some v) (ps : List Nat) : roundEntry key g (p :: ps) = some v := by
  rw [roundEntry, h]
  rfl

/-- A table that stops at the first precision where all entries are decided holds what each entry has alone. -/
theorem roundTable_getElem? {keys : List (List Nat)} {f : Prec → List (Option Encl)}
    (hlen : ∀ c, (f c).length = keys.length) (ps : List Nat) (i : Nat) :
    (roundTable keys f ps)[i]? = keys[i]?.map (fun k => roundEntry k (fun c => (f c).getD i none) ps) := by
  induction ps with
  | nil => simp only [roundTable, roundEntry, List.getElem?_map]
  | cons p ps ih =>
    by_cases hi : i < keys.length
    · have hf : i < (f (Prec.ofBits p)).length := by rwa [hlen]
      have hhere : (List.zipWith (roundOpt p) keys (f (Prec.ofBits p)))[i]?
          = some (roundOpt p keys[i] ((f (Prec.ofBits p)).getD i none)) := by
        simp [hi, hf]
      rw [List.getElem?_eq_getElem hi] at ih ⊢
      simp only [roundTable, Option.map_some, roundEntry]
      split
      · rename_i hall
        rw [hhere]
        obtain ⟨v, hv⟩ := Option.isSome_iff_exists.1 (List.all_eq_true.1 hall _ (List.mem_of_getElem? hhere))
        rw [hv]
        rfl
      · rw [List.getElem?_zipWith, hhere, ih]
        rfl
    · have hnone : keys[i]? = none := List.getElem?_eq_none (by omega)
      have hshort : (List.zipWith (roundOpt p) keys (f (Prec.ofBits p)))[i]? = none := by
        simp [List.getElem?_zipWith, hnone]
      simp only [roundTable, hnone, Option.map_none]
      split
      · exact hshort
      · rw [List.getElem?_zipWith, hshort]

theorem tableEntries_getElem? {keys : List (List Nat)} {f : Prec → List (Option Encl)}
    (hlen : ∀ c, (f c).length = keys.length) (i : Nat) : (tableEntries keys f)[i]? = keys[i]?.map (fun k =>
      (roundEntry k (fun c => (f c).getD i none) precisions).getD (Config.undecidedEntry k)) := by
  rw [tableEntries, List.getElem?_zipWith, roundTable_getElem? hlen]
  cases keys[i]? <;> rfl

theorem tableEntries_length {keys : List (List Nat)} {f : Prec → List (Option Encl)}
    (hlen : ∀ c, (f c).length = keys.length) : (tableEntries keys f).length = keys.length := by
  have h := tableEntries_getElem? hlen
  apply le_antisymm
  · rw [← List.getElem?_eq_none_iff, h, List.getElem?_eq_none le_rfl]
    rfl
  · rw [← List.getElem?_eq_none_iff (l := keys), ← Option.map_eq_none_iff, ← h]
    exact List.getElem?_eq_none le_rfl

theorem fmag_roundInt_zero (p : Nat) : fmag (roundInt p 0) = 0 := by
  rw [roundInt, fmag_roundUnits]
  simp [roundMag_eq, stepMag, roundSig, roundHalfEven, roundShift]

/-- An enclosure whose ends round to the same value other than a zero decides that value. -/
theorem roundEncl_of_ends (key : List Nat) {p : Nat} {e : Encl} {v : Word} (hlo : roundInt p e.lo = v)
    (hhi : roundInt p e.hi = v) (hv : fmag v ≠ 0) : roundEncl key p e = some v := by
  have hz : ¬ (e.lo = 0 ∧ e.hi = 0) := by
    rintro ⟨h, -⟩
    exact hv (by rw [← hlo, h, fmag_roundInt_zero])
  rw [roundEncl, if_neg hz, hlo, hhi]
  simp only [hv, and_self, if_false, if_true]

/-! ### Exact cosines -/

theorem cosTurn_zero (c : Prec) (d : Nat) : cosTurn c 0 d = Encl.ratio c.p 1 1 := by
  simp [cosTurn, quarterOf, cosQuarter]

theorem cosTurn_whole (c : Prec) (d : Nat) : cosTurn c d d = Encl.ratio c.p 1 1 := by
  simp [cosTurn, quarterOf, cosQuarter]

theorem quarterOf_half {m : Nat} (hm : 0 < m) : quarterOf m (2 * m) = (2, 0) := by
  have hmod : ((m : Int) % ((2 * m : Nat) : Int)).toNat = m := by
    rw [Int.emod_eq_of_lt (by omega) (by omega), Int.toNat_natCast]
  have hturn : 4 * m = 2 * (2 * m) := by omega
  rw [quarterOf, hmod, hturn, Nat.mul_div_cancel _ (by omega), Nat.mul_mod_left]

theorem cosTurn_half (c : Prec) {m : Nat} (hm : 0 < m) : cosTurn c m (2 * m) = (Encl.ratio c.p 1 1).neg := by
  simp only [cosTurn, quarterOf_half hm, cosQuarter, if_true]

/-! ### The windows -/

theorem windowHalf_keys_length (w : Window) (n2 : Nat) (c : Prec) :
    ((List.range ((n2 + 1) / 2)).map (fun i => some (windowAt w c i (n2 - 1)))).length
      = ((List.range ((n2 + 1) / 2)).map (fun i => [3, w.id, i, n2])).length := by simp

/-- A window sample that the first precision decides. -/
theorem windowHalf_getD {w : Window} {n2 i : Nat} (hi : i < (n2 + 1) / 2) {v : Word}
    (h : roundEncl [3, w.id, i, n2] 64 (windowAt w (Prec.ofBits 64) i (n2 - 1)) = some v) :
    (windowHalf w n2).getD i fzero = v := by
  have hfirst := roundEntry_of_first (g := fun c => some (windowAt w c i (n2 - 1))) (p := 64)
    (show roundOpt 64 [3, w.id, i, n2] _ = some v from h) [128, 256, 512, 1024, 2048]
  rw [List.getD_eq_getElem?_getD, windowHalf, tableEntries_getElem? (windowHalf_keys_length w n2)]
  simp only [List.getElem?_map, List.getElem?_range hi, Option.map_some, List.getD_eq_getElem?_getD, Option.getD_some,
    precisions]
  rw [hfirst]
  rfl

theorem windowHalf_boxcar {n2 i : Nat} (hi : i < (n2 + 1) / 2) : (windowHalf .boxcar n2).getD i fzero = fone := by
  apply windowHalf_getD hi
  exact roundEncl_of_ends (e := Encl.ratio 64 1 1) _ (by decide +kernel) (by decide +kernel) (by decide)

/-- The Hann window starts with an exact 0. -/
theorem windowHalf_hann_zero {n2 : Nat} (h : 0 < n2) : (windowHalf .hann n2).getD 0 fzero = fzero := by
  apply windowHalf_getD (by omega)
  simp only [windowAt, Nat.cast_zero, cosTurn_zero]
  rfl

/-- In the middle of a window of odd length, half a turn, every window is 1. -/
theorem windowAt_half (w : Window) (key : List Nat) {m : Nat} (hm : 0 < m) :
    roundEncl key 64 (windowAt w (Prec.ofBits 64) m (2 * m)) = some fone := by
  have htwo : cosTurn (Prec.ofBits 64) (2 * m : Nat) (2 * m) = Encl.ratio 64 1 1 := cosTurn_whole _ _
  have hone : cosTurn (Prec.ofBits 64) m (2 * m) = (Encl.ratio 64 1 1).neg := cosTurn_half _ hm
  have hp : (Prec.ofBits 64).p = 64 := rfl
  cases w <;> simp only [windowAt, blackmanAt, timesRatio, htwo, hone, hp] <;>
    exact roundEncl_of_ends _ (by decide +kernel) (by decide +kernel) (by decide)

theorem windowHalf_middle (w : Window) {m : Nat} (hm : 0 < m) : (windowHalf w (2 * m + 1)).getD m fzero = fone :=
  windowHalf_getD (by omega) (windowAt_half w _ hm)

/-! ### A row of WROM -/

theorem windowTable_length (w : Window) {n2 n : Nat} (h : n2 ≤ n) : (windowTable w n2 n).length = n := by
  simp [windowTable]
  omega

/-- A sample of the window is that of its half, counted from the nearer end. -/
theorem windowTable_inside (w : Window) {n2 n k : Nat} (h : k < n2) :
    (windowTable w n2 n).getD k fzero = (windowHalf w n2).getD (min k (n2 - 1 - k)) fzero := by
  rw [List.getD_eq_getElem?_getD, windowTable, List.getElem?_append_left (by simpa using h)]
  simp only [List.getElem?_map, List.getElem?_range h, Option.map_some, Option.getD_some]

theorem windowTable_outside (w : Window) {n2 n k : Nat} (h : n2 ≤ k) : (windowTable w n2 n).getD k fzero = fzero := by
  rw [List.getD_eq_getElem?_getD, windowTable, List.getElem?_append_right (by simpa using h), List.getElem?_replicate]
  split <;> rfl

theorem windowTable_boxcar {n2 n k : Nat} (h : k < n2) : (windowTable .boxcar n2 n).getD k fzero = fone := by
  rw [windowTable_inside _ h]
  exact windowHalf_boxcar (by omega)

theorem windowTable_hann_ends {n2 n k : Nat} (h : k < n2) (hend : k = 0 ∨ k = n2 - 1) :
    (windowTable .hann n2 n).getD k fzero = fzero := by
  rw [windowTable_inside _ h, show min k (n2 - 1 - k) = 0 by omega]
  exact windowHalf_hann_zero (by omega)

theorem windowTable_middle (w : Window) {n2 n : Nat} (h : 2 ≤ n2) (hodd : n2 % 2 = 1) :
    (windowTable w n2 n).getD (n2 / 2) fzero = fone := by
  obtain ⟨m, rfl⟩ : ∃ m, n2 = 2 * m + 1 := ⟨n2 / 2, by omega⟩
  rw [windowTable_inside _ (by omega), show min ((2 * m + 1) / 2) (2 * m + 1 - 1 - (2 * m + 1) / 2) = m by omega]
  exact windowHalf_middle w (by omega)

theorem windowTable_symmetric (w : Window) {n2 n k : Nat} (h : k < n2) :
    (windowTable w n2 n).getD k fzero = (windowTable w n2 n).getD (n2 - 1 - k) fzero := by
  rw [windowTable_inside _ h, windowTable_inside _ (by omega)]
  congr 1
  omega

end Sys2Proof.Machine
end

section
/-! SUPPORT. What INIT leaves in each internal memory (rule R234): one lemma for what each stage writes, one for what it
leaves alone. -/

namespace Sys2Proof.Machine

/-! ### Reads that depend on the memories alone -/

theorem readWord_congr {s t : State} (hm : t.mem = s.mem) (hf : t.free = s.free) (id : MemId) (i : Nat) :
    t.readWord id i = s.readWord id i := by
  rw [State.readWord, State.readWord, hm, hf]

theorem readCx_congr {s t : State} {id : MemId} (h : ∀ i, t.readWord id i = s.readWord id i) (i : Nat) :
    t.readCx id i = s.readCx id i := by
  rw [State.readCx, State.readCx, h, h]

/-! ### What each stage leaves alone -/

section
variable (s : State) {id id' : MemId} (i : Nat)

@[simp] theorem readWord_initTwiddles (h : id ≠ .tw) : s.initTwiddles.readWord id i = s.readWord id i :=
  s.readWord_writeWords_of_ne _ _ _ _ _ h

@[simp] theorem readWord_initWindow (w : Window) (h : id ≠ .wrom) : (s.initWindow w).readWord id i = s.readWord id i :=
  s.readWord_writeWords_of_ne _ _ _ _ _ h

@[simp] theorem readWord_initWindows (h : id ≠ .wrom) : s.initWindows.readWord id i = s.readWord id i := by
  simp [State.initWindows, h]

@[simp] theorem readWord_initTemplate (h : id ≠ .matchT) : s.initTemplate.readWord id i = s.readWord id i :=
  s.readWord_writeWords_of_ne _ _ _ _ _ h

@[simp] theorem readWord_initSpectrum (h : id ≠ .fm) : s.initSpectrum.readWord id i = s.readWord id i :=
  s.readWord_writeWords_of_ne _ _ _ _ _ h

@[simp] theorem readWord_initRotation (h : id ≠ .rot) : s.initRotation.readWord id i = s.readWord id i := by
  unfold State.initRotation
  split
  · exact s.readWord_writeWords_of_ne _ _ _ _ _ h
  · rfl

@[simp] theorem readWord_clearReals (n : Nat) (h : id' ≠ id) : (s.clearReals id n).readWord id' i = s.readWord id' i :=
  s.readWord_writeWords_of_ne _ _ _ _ _ h

@[simp] theorem readWord_clearCxs (n : Nat) (h : id' ≠ id) : (s.clearCxs id n).readWord id' i = s.readWord id' i :=
  readWord_clearReals s i _ h

@[simp] theorem readCx_clearReals (n : Nat) (h : id' ≠ id) : (s.clearReals id n).readCx id' i = s.readCx id' i :=
  readCx_congr (fun _ => readWord_clearReals s _ _ h) i

@[simp] theorem readCx_clearCxs (n : Nat) (h : id' ≠ id) : (s.clearCxs id n).readCx id' i = s.readCx id' i :=
  readCx_clearReals s i _ h

@[simp] theorem readWord_initWork (hxn : id ≠ .xn) (hx : id ≠ .x) (hz : id ≠ .z) (hcx : id ≠ .cx) :
    s.initWork.readWord id i = s.readWord id i := by
  simp [State.initWork, hxn, hx, hz, hcx]

@[simp] theorem readWord_initBuffers (hb : id ≠ .bufs) (hd : id ≠ .dcbuf) (hi : id ≠ .iqbuf) :
    s.initBuffers.readWord id i = s.readWord id i := by
  simp [State.initBuffers, hb, hd, hi]

@[simp] theorem readWord_initLines (hl : id ≠ .lpiq) (hd : id ≠ .decbuf) (hf : id ≠ .lpfm) :
    s.initLines.readWord id i = s.readWord id i := by
  simp [State.initLines, hl, hd, hf]

@[simp] theorem readCx_initBuffers (hb : id ≠ .bufs) (hd : id ≠ .dcbuf) (hi : id ≠ .iqbuf) :
    s.initBuffers.readCx id i = s.readCx id i :=
  readCx_congr (fun j => readWord_initBuffers s j hb hd hi) i

@[simp] theorem readCx_initLines (hl : id ≠ .lpiq) (hd : id ≠ .decbuf) (hf : id ≠ .lpfm) :
    s.initLines.readCx id i = s.readCx id i :=
  readCx_congr (fun j => readWord_initLines s j hl hd hf) i

end

/-! ### What each stage writes -/

theorem readCx_initTwiddles {s : State} {k : Nat} (h : k < s.nSize / 2) :
    s.initTwiddles.readCx .tw k = cis .reference (-(k : Int)) s.nSize := by
  rw [State.initTwiddles, State.readCx_writeCxs, if_pos ⟨rfl, Nat.zero_le k, by simpa [twiddleTable] using h⟩]
  simp [twiddleTable, List.getD_eq_getElem?_getD, h]

theorem Window.id_injective : Function.Injective Window.id := by
  intro a b
  cases a <;> cases b <;> decide

/-- One window's row of WROM, and the rows beside it. -/
theorem readWord_initWindow_wrom {s : State} (w w' : Window) {k : Nat}
    (hspan : s.size.k.toNat + s.size.l.toNat ≤ s.nSize) (hroom : s.nSize ≤ s.inst.nMax) (hk : k < s.nSize) :
    (s.initWindow w').readWord .wrom (w.id * s.inst.nMax + k) =
      if w = w' then (windowTable w (s.size.k.toNat + s.size.l.toNat) s.nSize).getD k fzero
      else s.readWord .wrom (w.id * s.inst.nMax + k) := by
  rw [State.initWindow, State.readWord_writeWords, windowTable_length w' hspan, State.wromIndex, Nat.add_zero]
  by_cases hw : w = w'
  · subst hw
    rw [if_pos ⟨rfl, by omega, by omega⟩, if_pos rfl, Nat.add_sub_cancel_left]
    rfl
  · have hid : w.id ≠ w'.id := fun h => hw (Window.id_injective h)
    rw [if_neg hw, if_neg]
    rintro ⟨-, hlo, hhi⟩
    rcases Nat.lt_or_gt_of_ne hid with hlt | hgt
    · have := Nat.mul_le_mul_right s.inst.nMax hlt
      rw [Nat.succ_mul] at this
      omega
    · have := Nat.mul_le_mul_right s.inst.nMax hgt
      rw [Nat.succ_mul] at this
      omega

theorem readWord_initWindows_wrom {s : State} (w : Window) {k : Nat}
    (hspan : s.size.k.toNat + s.size.l.toNat ≤ s.nSize) (hroom : s.nSize ≤ s.inst.nMax) (hk : k < s.nSize) :
    s.initWindows.readWord .wrom (w.id * s.inst.nMax + k)
      = (windowTable w (s.size.k.toNat + s.size.l.toNat) s.nSize).getD k fzero := by
  have step {u : State} (hu : MemSpec s u) (w' : Window) :
      (u.initWindow w').readWord .wrom (w.id * s.inst.nMax + k) =
        if w = w' then (windowTable w (s.size.k.toNat + s.size.l.toNat) s.nSize).getD k fzero
        else u.readWord .wrom (w.id * s.inst.nMax + k) := by
    have hn : u.nSize = s.nSize := congrArg (fun z => z.n.toNat) hu.size
    have := readWord_initWindow_wrom (s := u) w w' (k := k) (by rwa [hu.size, hn]) (by rwa [hn, hu.inst]) (by rwa [hn])
    rwa [hu.inst, hu.size, hn] at this
  have boxcar := initWindow_spec s .boxcar
  have hann := boxcar.trans (initWindow_spec _ .hann)
  have hamming := hann.trans (initWindow_spec _ .hamming)
  rw [State.initWindows, step hamming, step hann, step boxcar, step (MemSpec.refl s)]
  cases w <;> rfl

theorem templateQuotients_length (c : Prec) (bt s : Nat) (hdr : List Bool) (l : Nat) :
    (templateQuotients c bt s hdr l).length = l := by
  unfold templateQuotients
  dsimp only
  split <;> simp

theorem matchTemplate_length (bt : Word) (s : Nat) (hdr : List Bool) (l : Nat) :
    (matchTemplate bt s hdr l).length = l := by
  rw [matchTemplate, tableEntries_length (fun c => by simp [templateQuotients_length])]
  simp

theorem readWord_initTemplate_matchT {s : State} {k : Nat} (h : k < s.size.l.toNat) : s.initTemplate.readWord .matchT k
    = (matchTemplate s.cfg.bt s.cfg.sps.toNat s.headerBits s.size.l.toNat).getD k fzero := by
  rw [State.initTemplate, State.readWord_writeWords, matchTemplate_length, if_pos ⟨rfl, Nat.zero_le k, by omega⟩]
  rfl

theorem readCx_initSpectrum {s : State} {k : Nat} (h : k < s.nSize) :
    s.initSpectrum.readCx .fm k = (s.transform s.reversedTemplate).getD k czero := by
  have hlen : (s.transform s.reversedTemplate).length = s.nSize := by simp [State.reversedTemplate]
  rw [State.initSpectrum, State.readCx_writeCxs, hlen, if_pos ⟨rfl, Nat.zero_le k, by omega⟩]
  rfl

theorem readCx_initRotation {s : State} (hd : s.cfg.decim = true) {k : Nat} (h : k < s.size.rotLen.toNat) :
    s.initRotation.readCx .rot k = cis .reference (-(s.cfg.rotf.toInt * k)) s.cfg.inputRate := by
  rw [State.initRotation, if_pos hd, State.readCx_writeCxs,
    if_pos ⟨rfl, Nat.zero_le k, by simpa [rotationTable] using h⟩]
  simp [rotationTable, List.getD_eq_getElem?_getD, h, s32]

theorem readWord_clearReals_self (s : State) (id : MemId) {n k : Nat} (h : k < n) :
    (s.clearReals id n).readWord id k = fzero := by
  rw [State.clearReals, State.readWord_writeWords, if_pos ⟨rfl, Nat.zero_le k, by simpa using h⟩]
  simp [List.getD_eq_getElem?_getD, h]

theorem readCx_clearCxs_self (s : State) (id : MemId) {n k : Nat} (h : k < n) :
    (s.clearCxs id n).readCx id k = czero := by
  rw [State.readCx, State.clearCxs, readWord_clearReals_self _ _ (by omega), readWord_clearReals_self _ _ (by omega)]
  rfl

theorem initWork_zero (s : State) {k : Nat} (h : k < s.nSize) : s.initWork.readWord .xn k = fzero
    ∧ s.initWork.readCx .x k = czero ∧ s.initWork.readCx .z k = czero ∧ s.initWork.readCx .cx k = czero := by
  simp [State.initWork, readWord_clearReals_self, readCx_clearCxs_self, h]

theorem initBuffers_zero (s : State) {k : Nat} (h : k < s.size.m.toNat) : s.initBuffers.readWord .bufs k = fzero
    ∧ s.initBuffers.readWord .dcbuf k = fzero ∧ s.initBuffers.readCx .iqbuf k = czero := by
  simp [State.initBuffers, readWord_clearReals_self, readCx_clearCxs_self, h]

theorem initLines_zero (s : State) {k : Nat} (h : k < s.inst.tapsMax) : s.initLines.readCx .lpiq k = czero
    ∧ s.initLines.readCx .decbuf k = czero ∧ s.initLines.readWord .lpfm k = fzero := by
  simp [State.initLines, readWord_clearReals_self, readCx_clearCxs_self, h]

/-! ### The memories of a new session -/

section
variable (s : State)

theorem initMems_hdr (i : Nat) : s.initMems.readWord .hdr i = s.readWord .hdr i := by
  simp [State.initMems]

theorem initMems_tw {k : Nat} (h : k < s.nSize / 2) :
    s.initMems.readCx .tw k = cis .reference (-(k : Int)) s.nSize := by
  rw [← readCx_initTwiddles h]
  exact readCx_congr (fun i => by simp [State.initMems]) k

theorem initMems_wrom (w : Window) {k : Nat} (hspan : s.size.k.toNat + s.size.l.toNat ≤ s.nSize)
    (hroom : s.nSize ≤ s.inst.nMax) (hk : k < s.nSize) : s.initMems.readWord .wrom (w.id * s.inst.nMax + k)
      = (windowTable w (s.size.k.toNat + s.size.l.toNat) s.nSize).getD k fzero := by
  have hframe (i : Nat) : s.initMems.readWord .wrom i = s.initTwiddles.initWindows.readWord .wrom i := by
    simp [State.initMems]
  rw [hframe]
  exact readWord_initWindows_wrom (s := s.initTwiddles) w hspan hroom hk

theorem initMems_matchT {k : Nat} (h : k < s.size.l.toNat) : s.initMems.readWord .matchT k
    = (matchTemplate s.cfg.bt s.cfg.sps.toNat s.headerBits s.size.l.toNat).getD k fzero := by
  have hframe : s.initMems.readWord .matchT k = s.initTwiddles.initWindows.initTemplate.readWord .matchT k := by
    simp [State.initMems]
  have hbits : s.initTwiddles.initWindows.headerBits = s.headerBits := by
    refine List.map_congr_left fun j _ => ?_
    simp [State.headerBit]
  rw [hframe, ← hbits]
  exact readWord_initTemplate_matchT h

theorem initMems_fm {k : Nat} (h : k < s.nSize) : s.initMems.readCx .fm k
    = (fftCore ((List.range (s.nSize / 2)).map (s.initMems.readCx .tw)) s.size.log2n.toNat s.nSize
        ((List.range s.nSize).map (fun i =>
          if i < s.size.l.toNat then ⟨s.initMems.readWord .matchT (s.size.l.toNat - 1 - i), fzero⟩ else czero))).getD k
        czero := by
  have hframe : s.initMems.readCx .fm k = s.initTwiddles.initWindows.initTemplate.initSpectrum.readCx .fm k :=
    readCx_congr (fun i => by simp [State.initMems]) k
  have htw (j : Nat) : s.initMems.readCx .tw j = s.initTwiddles.initWindows.initTemplate.readCx .tw j :=
    readCx_congr (fun i => by simp [State.initMems]) j
  have hmatch (j : Nat) : s.initMems.readWord .matchT j
      = s.initTwiddles.initWindows.initTemplate.readWord .matchT j := by
    simp [State.initMems]
  have hspec := ((initTwiddles_spec s).trans (initWindows_spec _)).trans (initTemplate_spec _)
  rw [hframe, funext htw]
  simp only [hmatch]
  generalize s.initTwiddles.initWindows.initTemplate = u at hspec ⊢
  have hn : u.nSize = s.nSize := congrArg (fun z => z.n.toNat) hspec.size
  rw [readCx_initSpectrum (hn ▸ h), State.transform, State.reversedTemplate, State.readCxs, hn, hspec.size]

theorem initMems_rot (hd : s.cfg.decim = true) {k : Nat} (h : k < s.size.rotLen.toNat) :
    s.initMems.readCx .rot k = cis .reference (-(s.cfg.rotf.toInt * k)) s.cfg.inputRate := by
  have hframe : s.initMems.readCx .rot k
      = s.initTwiddles.initWindows.initTemplate.initSpectrum.initRotation.readCx .rot k :=
    readCx_congr (fun i => by simp [State.initMems]) k
  have hspec := (((initTwiddles_spec s).trans (initWindows_spec _)).trans (initTemplate_spec _)).trans
    (initSpectrum_spec _)
  rw [hframe]
  generalize s.initTwiddles.initWindows.initTemplate.initSpectrum = u at hspec ⊢
  rw [readCx_initRotation (by rwa [hspec.cfg]) (by rwa [hspec.size]), hspec.cfg]

/-- The tables that stand before the working memories are cleared. -/
def State.initTables : State := s.initTwiddles.initWindows.initTemplate.initSpectrum.initRotation

theorem initTables_spec : MemSpec s s.initTables :=
  ((((initTwiddles_spec s).trans (initWindows_spec _)).trans (initTemplate_spec _)).trans (initSpectrum_spec _)).trans
    (initRotation_spec _)

theorem initMems_eq : s.initMems = s.initTables.initWork.initBuffers.initLines := rfl

theorem initMems_work {k : Nat} (h : k < s.nSize) : s.initMems.readWord .xn k = fzero ∧ s.initMems.readCx .x k = czero
    ∧ s.initMems.readCx .z k = czero ∧ s.initMems.readCx .cx k = czero := by
  have hn : k < s.initTables.nSize := by rwa [State.nSize, (initTables_spec s).size]
  obtain ⟨hxn, hx, hz, hcx⟩ := initWork_zero s.initTables hn
  simp [initMems_eq, hxn, hx, hz, hcx]

theorem initMems_buffers {k : Nat} (h : k < s.size.m.toNat) : s.initMems.readWord .bufs k = fzero
    ∧ s.initMems.readWord .dcbuf k = fzero ∧ s.initMems.readCx .iqbuf k = czero := by
  have hspec := (initTables_spec s).trans (initWork_spec _)
  obtain ⟨hbufs, hdcbuf, hiqbuf⟩ := initBuffers_zero s.initTables.initWork (k := k) (by rwa [hspec.size])
  simp [initMems_eq, hbufs, hdcbuf, hiqbuf]

theorem initMems_lines {k : Nat} (h : k < s.inst.tapsMax) : s.initMems.readCx .lpiq k = czero
    ∧ s.initMems.readCx .decbuf k = czero ∧ s.initMems.readWord .lpfm k = fzero := by
  have hspec := ((initTables_spec s).trans (initWork_spec _)).trans (initBuffers_spec _)
  rw [initMems_eq]
  exact initLines_zero _ (by rwa [hspec.inst])

end

end Sys2Proof.Machine
end

section
/-! SUPPORT. MATCH follows the polarity of the header: every step from the header's bits to the rounded template turns a
sign with it (rules R181, R182). -/

namespace Sys2Proof.Machine

/-! ### The pulses of a template sample -/

theorem headerSign_not (hdr : List Bool) (j : Int) : headerSign (hdr.map (!·)) j = -headerSign hdr j := by
  unfold headerSign
  split
  · rfl
  · rw [List.getElem?_map]
    cases hdr[j.toNat]? with
    | none => rfl
    | some b => cases b <;> rfl

/-- Pulses that enter a sum with the opposite sign. -/
def negTerms (ts : List (Nat × Int)) : List (Nat × Int) := ts.map (fun t => (t.1, -t.2))

/-- Pulses at the same position taken together: what `templateTerms` does with the three pulses of a sample. -/
def mergeTerms (ts : List (Nat × Int)) : List (Nat × Int) :=
  ((ts.map Prod.fst).eraseDups.map (fun d => (d, ((ts.filter (fun t => t.1 = d)).map Prod.snd).sum))).filter
    (fun t => t.2 ≠ 0)

theorem negTerms_filter_pos (ts : List (Nat × Int)) (d : Nat) :
    (((negTerms ts).filter (fun t => t.1 = d)).map Prod.snd).sum
      = -((ts.filter (fun t => t.1 = d)).map Prod.snd).sum := by
  have hsum := List.sum_hom ((ts.filter (fun t => t.1 = d)).map Prod.snd) (negAddMonoidHom : Int →+ Int)
  rw [List.map_map] at hsum
  rw [negTerms, List.filter_map, List.map_map]
  exact hsum

theorem negTerms_filter_ne_zero (ts : List (Nat × Int)) :
    (negTerms ts).filter (fun t => t.2 ≠ 0) = negTerms (ts.filter (fun t => t.2 ≠ 0)) := by
  simp [negTerms, List.filter_map, Function.comp_def]

theorem mergeTerms_neg (ts : List (Nat × Int)) : mergeTerms (negTerms ts) = negTerms (mergeTerms ts) := by
  have hfst : (negTerms ts).map Prod.fst = ts.map Prod.fst := by simp [negTerms, Function.comp_def]
  rw [mergeTerms, hfst, mergeTerms, ← negTerms_filter_ne_zero]
  simp only [negTerms_filter_pos]
  congr 1
  rw [negTerms, List.map_map]
  rfl

/-- The three pulses of template sample `i` (rule R181). -/
def templatePulses (hdr : List Bool) (s i : Nat) : List (Nat × Int) :=
  let pos := i * 65536 / s
  let tn : Int := 2 * ((i * 65536 : Nat) - (pos * s : Nat) : Int) - s
  [(tn.natAbs, headerSign hdr pos), ((tn + 2 * s).natAbs, headerSign hdr (pos - 1)),
    ((tn - 2 * s).natAbs, headerSign hdr (pos + 1))]

theorem templateTerms_eq (hdr : List Bool) (s i : Nat) : templateTerms hdr s i = mergeTerms (templatePulses hdr s i) :=
  rfl

theorem templateTerms_not (hdr : List Bool) (s i : Nat) :
    templateTerms (hdr.map (!·)) s i = negTerms (templateTerms hdr s i) := by
  have hpulses : templatePulses (hdr.map (!·)) s i = negTerms (templatePulses hdr s i) := by
    simp [templatePulses, negTerms, headerSign_not]
  rw [templateTerms_eq, templateTerms_eq, hpulses, mergeTerms_neg]

/-! ### Enclosures of opposite reals -/

theorem Encl.add_neg (a b : Encl) : a.neg.add b.neg = (a.add b).neg := by
  simp only [Encl.add, Encl.neg, Encl.mk.injEq]
  omega

theorem Encl.scale_neg (a : Encl) {c : Int} (hc : c ≠ 0) : a.scale (-c) = (a.scale c).neg := by
  unfold Encl.scale
  by_cases h : 0 ≤ c
  · rw [if_neg (by omega), if_pos h]
    simp [Encl.neg]
  · rw [if_pos (by omega), if_neg h]
    simp [Encl.neg]

/-- A square does not see the sign. -/
theorem Encl.mul_neg_neg (p : Nat) (a : Encl) : Encl.mul p a.neg a.neg = Encl.mul p a a := by
  have hmin (u v w x : Int) : min4 x w v u = min4 u v w x := by
    unfold min4
    omega
  have hmax (u v w x : Int) : max4 x w v u = max4 u v w x := by
    unfold max4
    omega
  simp only [Encl.mul, Encl.neg, Int.neg_mul_neg]
  rw [hmin, hmax]

theorem floorDiv_neg (a : Int) (d : Nat) : floorDiv (-a) d = -ceilDiv a d := by simp [floorDiv, ceilDiv]

theorem ceilDiv_neg (a : Int) (d : Nat) : ceilDiv (-a) d = -floorDiv a d := by simp [floorDiv, ceilDiv]

theorem Encl.divPos_neg (p : Nat) (a b : Encl) : a.neg.divPos p b = (a.divPos p b).neg := by
  simp only [Encl.divPos, Encl.neg, Int.neg_mul, floorDiv_neg, ceilDiv_neg, min_neg_neg, max_neg_neg]

theorem Encl.div_neg (p : Nat) (a b : Encl) : a.neg.div p b = (a.div p b).map Encl.neg := by
  unfold Encl.div
  split
  · simp [Encl.divPos_neg]
  · split
    · simp [Encl.divPos_neg]
    · rfl

theorem sumEncl_neg (es : List (Option Encl)) : sumEncl (es.map (Option.map Encl.neg)) = (sumEncl es).map Encl.neg := by
  induction es with
  | nil => rfl
  | cons e es ih =>
    cases e with
    | none => rfl
    | some a =>
      simp only [List.map_cons, Option.map_some, sumEncl, ih]
      cases sumEncl es with
      | none => rfl
      | some b => exact congrArg some (Encl.add_neg a b)

/-! ### The quotients -/

theorem templateTerms_ne_zero {hdr : List Bool} {s i : Nat} {t : Nat × Int} (h : t ∈ templateTerms hdr s i) :
    t.2 ≠ 0 := by
  simpa using (List.mem_filter.1 h).2

theorem templateSample_not (c : Prec) (bt s : Nat) (hdr : List Bool) (i : Nat) :
    templateSample c bt s (hdr.map (!·)) i = (templateSample c bt s hdr i).map Encl.neg := by
  rw [templateSample, templateTerms_not, templateSample, ← sumEncl_neg, negTerms, List.map_map, List.map_map]
  congr 1
  refine List.map_congr_left fun t ht => ?_
  simp only [Function.comp_apply, Option.map_map]
  congr 1
  exact funext fun e => Encl.scale_neg e (templateTerms_ne_zero ht)

theorem templateQuotients_not (c : Prec) (bt s : Nat) (hdr : List Bool) (l : Nat) :
    templateQuotients c bt s (hdr.map (!·)) l = (templateQuotients c bt s hdr l).map (Option.map Encl.neg) := by
  have hbs : (List.range l).map (templateSample c bt s (hdr.map (!·)))
      = ((List.range l).map (templateSample c bt s hdr)).map (Option.map Encl.neg) := by
    rw [List.map_map]
    exact List.map_congr_left fun i _ => templateSample_not c bt s hdr i
  have henergy (bs : List (Option Encl)) : (bs.map (Option.map Encl.neg)).map (fun b => b.map (fun e => e.mul c.p e))
      = bs.map (fun b => b.map (fun e => e.mul c.p e)) := by
    simp [Function.comp_def, Encl.mul_neg_neg]
  simp only [templateQuotients, hbs, henergy]
  generalize (List.range l).map (templateSample c bt s hdr) = bs
  split
  · rw [List.map_map, List.map_map]
    rfl
  · rw [List.map_map, List.map_map]
    refine List.map_congr_left fun b _ => ?_
    cases b with
    | none => rfl
    | some e => exact Encl.div_neg c.p e _

/-! ### Rounding opposite reals -/

/-- A rounded value and that of the opposite real: undecided both, opposite, or both zeros. -/
def OppositeRounded (w w' : Option Word) : Prop :=
  (w = none ∧ w' = none)
    ∨ ∃ v v', w = some v ∧ w' = some v' ∧ (v' = fneg v ∨ (isZero v = true ∧ isZero v' = true))

theorem fmag_roundInt_neg (p : Nat) (n : Int) : fmag (roundInt p (-n)) = fmag (roundInt p n) := by
  rw [roundInt, roundInt, fmag_roundUnits, fmag_roundUnits, Int.natAbs_neg]

theorem roundInt_neg (p : Nat) {n : Int} (h : n ≠ 0) : roundInt p (-n) = fneg (roundInt p n) := by
  have hsign : decide (-n < 0) = !decide (n < 0) := by
    rw [← decide_not, decide_eq_decide]
    omega
  rw [roundInt, roundInt, Int.natAbs_neg, hsign, roundUnits, roundUnits, fneg_pack _ (roundMag_lt _ _)]

theorem roundEncl_tiny {key : List Nat} {p : Nat} {e : Encl} (hexact : ¬ (e.lo = 0 ∧ e.hi = 0))
    (h : fmag (roundInt p e.lo) = 0 ∧ fmag (roundInt p e.hi) = 0) :
    roundEncl key p e = some (pack (Config.tinyZeroNegative key) 0) := by
  rw [roundEncl, if_neg hexact]
  exact if_pos h

theorem roundEncl_not_tiny {key : List Nat} {p : Nat} {e : Encl} (hexact : ¬ (e.lo = 0 ∧ e.hi = 0))
    (h : ¬ (fmag (roundInt p e.lo) = 0 ∧ fmag (roundInt p e.hi) = 0)) :
    roundEncl key p e = if roundInt p e.lo = roundInt p e.hi then some (roundInt p e.lo) else none := by
  rw [roundEncl, if_neg hexact]
  exact if_neg h

theorem fneg_injective : Function.Injective fneg := by
  intro a b h
  refine word_ext ?_ (by rw [← fmag_fneg, h, fmag_fneg])
  have := congrArg fsign h
  rw [fsign_fneg, fsign_fneg] at this
  exact Bool.not_inj this

theorem roundEncl_neg (key key' : List Nat) (p : Nat) (e : Encl) :
    OppositeRounded (roundEncl key p e) (roundEncl key' p e.neg) := by
  by_cases hexact : e.lo = 0 ∧ e.hi = 0
  · obtain ⟨hlo, hhi⟩ := hexact
    refine .inr ⟨fzero, fzero, if_pos ⟨hlo, hhi⟩, if_pos ?_, .inr ⟨by decide, by decide⟩⟩
    simp [Encl.neg, hlo, hhi]
  have hexact' : ¬ (e.neg.lo = 0 ∧ e.neg.hi = 0) := by
    simpa [Encl.neg, and_comm] using hexact
  by_cases htiny : fmag (roundInt p e.lo) = 0 ∧ fmag (roundInt p e.hi) = 0
  · have htiny' : fmag (roundInt p e.neg.lo) = 0 ∧ fmag (roundInt p e.neg.hi) = 0 := by
      simpa [Encl.neg, fmag_roundInt_neg, and_comm] using htiny
    exact .inr ⟨_, _, roundEncl_tiny hexact htiny, roundEncl_tiny hexact' htiny', .inr ⟨isZero_pack _, isZero_pack _⟩⟩
  have htiny' : ¬ (fmag (roundInt p e.neg.lo) = 0 ∧ fmag (roundInt p e.neg.hi) = 0) := by
    simpa [Encl.neg, fmag_roundInt_neg, and_comm] using htiny
  rw [roundEncl_not_tiny hexact htiny, roundEncl_not_tiny hexact' htiny']
  -- ends that round to one magnitude are nonzero, so that each rounds to the opposite of its opposite
  have hends (h : fmag (roundInt p e.lo) = fmag (roundInt p e.hi)) :
      roundInt p e.neg.lo = fneg (roundInt p e.hi) ∧ roundInt p e.neg.hi = fneg (roundInt p e.lo) := by
    refine ⟨roundInt_neg p fun hz => ?_, roundInt_neg p fun hz => ?_⟩
    · rw [h, hz, fmag_roundInt_zero] at htiny
      exact htiny ⟨rfl, rfl⟩
    · rw [← h, hz, fmag_roundInt_zero] at htiny
      exact htiny ⟨rfl, rfl⟩
  by_cases hsame : roundInt p e.lo = roundInt p e.hi
  · obtain ⟨hlo, hhi⟩ := hends (congrArg fmag hsame)
    rw [if_pos hsame, hlo, hhi, if_pos (congrArg fneg hsame.symm), ← hsame]
    exact .inr ⟨_, _, rfl, rfl, .inl rfl⟩
  · rw [if_neg hsame, if_neg]
    · exact .inl ⟨rfl, rfl⟩
    · intro h
      have hmag : fmag (roundInt p e.lo) = fmag (roundInt p e.hi) := by
        have := congrArg fmag h.symm
        rwa [Encl.neg, fmag_roundInt_neg, fmag_roundInt_neg] at this
      obtain ⟨hlo, hhi⟩ := hends hmag
      rw [hlo, hhi] at h
      exact hsame (fneg_injective h).symm

theorem roundEntry_neg (key key' : List Nat) (g : Prec → Option Encl) (ps : List Nat) :
    OppositeRounded (roundEntry key g ps) (roundEntry key' (fun c => (g c).map Encl.neg) ps) := by
  induction ps with
  | nil => exact .inl ⟨rfl, rfl⟩
  | cons p ps ih =>
    have hhere : OppositeRounded (roundOpt p key (g (Prec.ofBits p)))
        (roundOpt p key' ((g (Prec.ofBits p)).map Encl.neg)) := by
      cases g (Prec.ofBits p) with
      | none => exact .inl ⟨rfl, rfl⟩
      | some e => exact roundEncl_neg key key' p e
    rw [roundEntry, roundEntry]
    rcases hhere with ⟨hw, hw'⟩ | ⟨v, v', hw, hw', hv⟩
    · rw [hw, hw']
      exact ih
    · rw [hw, hw']
      exact .inr ⟨v, v', rfl, rfl, hv⟩

/-- The template of the inverted header: each entry opposite, or a zero like it, or as undecided. -/
theorem matchTemplate_not (bt : Word) (s : Nat) (hdr : List Bool) {l k : Nat} (hk : k < l) :
    (matchTemplate bt s (hdr.map (!·)) l).getD k fzero = fneg ((matchTemplate bt s hdr l).getD k fzero)
      ∨ (isZero ((matchTemplate bt s hdr l).getD k fzero) = true
        ∧ isZero ((matchTemplate bt s (hdr.map (!·)) l).getD k fzero) = true)
      ∨ ((∃ key, (matchTemplate bt s hdr l).getD k fzero = Config.undecidedEntry key)
        ∧ ∃ key, (matchTemplate bt s (hdr.map (!·)) l).getD k fzero = Config.undecidedEntry key) := by
  have hentry (hdr : List Bool) : (matchTemplate bt s hdr l).getD k fzero
      = (roundEntry (5 :: k :: bt.toNat :: s :: hdr.map Bool.toNat)
          (fun c => (templateQuotients c (magUnits (fmag bt)) s hdr l).getD k none) precisions).getD
        (Config.undecidedEntry (5 :: k :: bt.toNat :: s :: hdr.map Bool.toNat)) := by
    rw [List.getD_eq_getElem?_getD, matchTemplate, tableEntries_getElem? (fun c => by simp [templateQuotients_length]),
      List.getElem?_map, List.getElem?_range hk]
    rfl
  have hneg (c : Prec) : (templateQuotients c (magUnits (fmag bt)) s (hdr.map (!·)) l).getD k none
      = ((templateQuotients c (magUnits (fmag bt)) s hdr l).getD k none).map Encl.neg := by
    rw [templateQuotients_not, List.getD_eq_getElem?_getD, List.getElem?_map, List.getD_eq_getElem?_getD]
    cases (templateQuotients c (magUnits (fmag bt)) s hdr l)[k]? <;> rfl
  rw [hentry, hentry, funext hneg]
  rcases roundEntry_neg (5 :: k :: bt.toNat :: s :: hdr.map Bool.toNat)
    (5 :: k :: bt.toNat :: s :: (hdr.map (!·)).map Bool.toNat)
    (fun c => (templateQuotients c (magUnits (fmag bt)) s hdr l).getD k none) precisions with
    ⟨hw, hw'⟩ | ⟨v, v', hw, hw', hv⟩
  · rw [hw, hw']
    exact .inr (.inr ⟨⟨_, rfl⟩, ⟨_, rfl⟩⟩)
  · rw [hw, hw']
    exact hv.imp_right .inl

end Sys2Proof.Machine
end

section
/-! SUPPORT. INIT's tables, put together. -/

namespace Sys2Proof.Machine

/-! ### The sizes of a new session -/

/-- The state whose tables INIT writes: the command begun, the sizes set. -/
def State.initBase (s : State) : State := s.beginCommand.initSizes

theorem one_le_templateLen {s : State} (hc : s.ConfigLegal) : 1 ≤ s.cfg.templateLen := by
  have := Nat.mul_le_mul hc.header hc.sps
  rw [Cfg.templateLen]
  omega

theorem span_le_transformLen (c : Cfg) : 2 ≤ c.transformLen ∧ c.k.toNat + c.templateLen ≤ c.transformLen :=
  max_le_iff.1 (le_ceilLog2 (max 2 (c.k.toNat + c.templateLen)))

/-- A template that fits the circular buffers fits the transform, and both fit the capacities. -/
theorem transformLen_le_nMax {s : State} (hc : s.ConfigLegal) (hk : s.CapacityLegal) :
    s.cfg.transformLen ≤ s.inst.nMax := by
  obtain ⟨htwo, hbuf⟩ := hk.buffer
  have hlog : 1 ≤ s.inst.log2nMax := by
    by_contra h
    rw [show s.inst.log2nMax = 0 by omega] at htwo
    omega
  have hspan : s.cfg.k.toNat + s.cfg.templateLen + s.cfg.delay.toNat ≤ 2 ^ s.inst.log2nMax :=
    hc.stride.2 s.inst.log2nMax hlog hbuf
  exact Nat.pow_le_pow_right (by decide) (ceilLog2_le _ _ (max_le htwo (by omega)))

theorem nMax_lt {p : Config.Params} (h : p.legal = true) : p.nMax < 2 ^ 32 := by
  simp only [Config.Params.legal, Bool.and_eq_true, decide_eq_true_eq] at h
  exact Nat.pow_lt_pow_right (by decide) (by omega)

/-- The window spans at least two samples and fits the transform, and that the capacity. -/
theorem initBase_room {s : State} (hi : s.inst.legal = true) (hc : s.ConfigLegal) (hk : s.CapacityLegal) :
    2 ≤ s.initBase.size.k.toNat + s.initBase.size.l.toNat
      ∧ s.initBase.size.k.toNat + s.initBase.size.l.toNat ≤ s.initBase.nSize ∧ s.initBase.nSize ≤ s.inst.nMax := by
  have hmax := nMax_lt hi
  have hlen := transformLen_le_nMax hc hk
  have hone := one_le_templateLen hc
  have hstride := hc.stride.1
  obtain ⟨-, hspan⟩ := span_le_transformLen s.cfg
  simp only [State.nSize, State.initBase, initSizes_size, beginCommand_cfg, BitVec.toNat_ofNat]
  rw [Nat.mod_eq_of_lt (show s.cfg.templateLen < 2 ^ 32 by omega),
    Nat.mod_eq_of_lt (show s.cfg.transformLen < 2 ^ 32 by omega)]
  omega

/-! ### The session that INIT opens -/

/-- The memories and the sizes after INIT. -/
theorem exec_init_reads {s t : State} (hf : s.status.fault = false) (hu : s.status.session = .uninit)
    (hc : s.ConfigLegal) (hk : s.CapacityLegal) (ht : exec .init s = .next t) :
    (∀ id i, t.readWord id i = s.initBase.initMems.readWord id i) ∧ t.size = s.initBase.size := by
  rw [exec_init_of_legal hf hu hc hk] at ht
  cases ht
  refine ⟨fun id i => readWord_congr ?_ ?_ id i, ?_⟩
  · rw [endCommand_mem, openSession_eq, initStatus_mem, initRun_mem, State.initBase]
  · rw [endCommand_free, openSession_eq, initStatus_free, initRun_free, State.initBase]
  · rw [endCommand_size, openSession_eq, initStatus_size, initRun_size, (initMems_spec _).size, State.initBase]

theorem exec_init_headerBits {s t : State} (hf : s.status.fault = false) (hu : s.status.session = .uninit)
    (hc : s.ConfigLegal) (hk : s.CapacityLegal) (ht : exec .init s = .next t) :
    s.initBase.headerBits = (List.range s.cfg.hdrLen.toNat).map (fun j => (t.readWord .hdr j).getLsbD 0) := by
  obtain ⟨hread, -⟩ := exec_init_reads hf hu hc hk ht
  rw [State.headerBits, State.initBase, initSizes_cfg, beginCommand_cfg]
  refine List.map_congr_left fun j _ => ?_
  rw [State.headerBit, hread, initMems_hdr, State.initBase]

/-- MATCH after INIT (rule R181). -/
theorem exec_init_matchT {s t : State} (hf : s.status.fault = false) (hu : s.status.session = .uninit)
    (hc : s.ConfigLegal) (hk : s.CapacityLegal) (ht : exec .init s = .next t) {k : Nat} (h : k < t.size.l.toNat) :
    t.readWord .matchT k = (matchTemplate s.cfg.bt s.cfg.sps.toNat
      ((List.range s.cfg.hdrLen.toNat).map (fun j => (t.readWord .hdr j).getLsbD 0)) t.size.l.toNat).getD k fzero := by
  obtain ⟨hread, hsize⟩ := exec_init_reads hf hu hc hk ht
  rw [← exec_init_headerBits hf hu hc hk ht, hread, hsize, initMems_matchT _ (by rwa [← hsize])]
  rfl

theorem templateFollowsPolarity : TemplateFollowsPolarity := by
  intro s s' t t' hf hf' hu hu' _ hc hk hcfg hinst hsize ht ht' hbits k hlt
  have hc' : s'.ConfigLegal := by
    rw [← configValid_iff] at hc ⊢
    simpa only [State.configValid, State.rateOk, State.iqTapsOk, State.fmTapsOk, State.decimationOk, hcfg, hinst, hsize]
      using hc
  have hk' : s'.CapacityLegal := by
    rw [← capacityOk_iff] at hk ⊢
    simpa only [State.capacityOk, hcfg, hinst] using hk
  have hl : t'.size.l = t.size.l := by
    rw [(exec_init_reads hf hu hc hk ht).2, (exec_init_reads hf' hu' hc' hk' ht').2]
    simp [State.initBase, hcfg]
  have hnot : (List.range s'.cfg.hdrLen.toNat).map (fun j => (t'.readWord .hdr j).getLsbD 0)
      = ((List.range s.cfg.hdrLen.toNat).map (fun j => (t.readWord .hdr j).getLsbD 0)).map (!·) := by
    rw [hcfg, List.map_map]
    exact List.map_congr_left fun j hj => hbits j (List.mem_range.1 hj)
  rw [exec_init_matchT hf hu hc hk ht hlt, exec_init_matchT hf' hu' hc' hk' ht' (by rwa [hl]), hnot, hl, hcfg]
  exact matchTemplate_not _ _ _ hlt

/-- WROM after INIT (rule R107). -/
theorem exec_init_wrom {s t : State} (hf : s.status.fault = false) (hu : s.status.session = .uninit)
    (hi : s.inst.legal = true) (hc : s.ConfigLegal) (hk : s.CapacityLegal) (ht : exec .init s = .next t) (w : Window)
    {k : Nat} (h : k < t.size.n.toNat) : t.readWord .wrom (w.id * s.inst.nMax + k)
      = (windowTable w (t.size.k.toNat + t.size.l.toNat) t.size.n.toNat).getD k fzero := by
  obtain ⟨hread, hsize⟩ := exec_init_reads hf hu hc hk ht
  obtain ⟨-, hspan, hroom⟩ := initBase_room hi hc hk
  rw [hsize] at h ⊢
  rw [hread]
  exact initMems_wrom s.initBase w hspan hroom h

end Sys2Proof.Machine

namespace Sys2Proof.Scope

open Machine

/-- Settles O54, memory by memory; the template's polarity is `templateFollowsPolarity`. -/
theorem initTables : Obligations.InitTables := by
  refine ⟨?_, templateFollowsPolarity⟩
  intro s t hf hu hi hc hk ht
  have hwrom := fun (w : Window) (k : Nat) => exec_init_wrom hf hu hi hc hk ht w (k := k)
  have hmatch := fun (k : Nat) => exec_init_matchT hf hu hc hk ht (k := k)
  obtain ⟨hread, hsize⟩ := exec_init_reads hf hu hc hk ht
  have hreadCx (id : MemId) (i : Nat) : t.readCx id i = s.initBase.initMems.readCx id i := readCx_congr (hread id) i
  obtain ⟨htwo, hspan, -⟩ := initBase_room hi hc hk
  rw [State.nSize, ← hsize] at hspan
  rw [← hsize] at htwo
  refine ⟨?tw, hwrom, ?pad, ?boxcar, ?hannFirst, ?hannLast, ?middle, ?symmetric, ?rot, hmatch, ?fm, ?work, ?buffers,
    ?lines⟩
  case tw =>
    intro k h
    rw [hreadCx, hsize]
    exact initMems_tw _ (by rwa [hsize] at h)
  case pad =>
    intro w k hout h
    rw [hwrom w k h, windowTable_outside w hout]
  case boxcar =>
    intro k h
    exact (hwrom .boxcar k (by omega)).trans (windowTable_boxcar h)
  case hannFirst => exact (hwrom .hann 0 (by omega)).trans (windowTable_hann_ends (by omega) (.inl rfl))
  case hannLast => exact (hwrom .hann _ (by omega)).trans (windowTable_hann_ends (by omega) (.inr rfl))
  case middle =>
    intro hodd w
    rw [hwrom w _ (by omega), windowTable_middle w htwo hodd]
  case symmetric =>
    intro w k h
    rw [hwrom w k (by omega), hwrom w _ (by omega), windowTable_symmetric w h]
  case rot =>
    intro hd k h
    have hrate : s.cfg.inputRate = s.cfg.sr.toNat * s.cfg.decm.toNat := by
      rw [Cfg.inputRate, Cfg.decimation, if_pos hd]
    rw [hreadCx, ← hrate]
    exact initMems_rot s.initBase hd (by rwa [hsize] at h)
  case fm =>
    intro k h
    rw [hsize] at h ⊢
    rw [hreadCx, initMems_fm _ h, funext (hreadCx .tw)]
    simp only [hread]
    rfl
  case work =>
    intro k h
    rw [hread, hreadCx, hreadCx, hreadCx]
    exact initMems_work _ (by rwa [hsize] at h)
  case buffers =>
    intro k h
    rw [hread, hread, hreadCx]
    exact initMems_buffers _ (by rwa [hsize] at h)
  case lines =>
    intro k h
    rw [hread, hreadCx, hreadCx]
    exact initMems_lines _ h

end Sys2Proof.Scope
end

section
/-! SUPPORT. What a command can do to the block, as a sequence of moves: each stage of every command is one, and an
invariant of every command is a property that every move keeps. -/

namespace Sys2Proof.Machine

/-! ### Moves -/

/-- `t` differs from `s` at most in registers that no invariant of a session speaks of: results, flags, the search's
registers, the estimator's sums, the fault record, the SOURCE's position, what the HOST has read. -/
structure Quiet (s t : State) : Prop where
  inst : t.inst = s.inst
  busy : t.status.busy = s.status.busy
  session : t.status.session = s.status.session
  cfg : t.cfg = s.cfg
  size : t.size = s.size
  mem : t.mem = s.mem
  during : t.during = s.during
  sampleIn : t.run.sampleIn = s.run.sampleIn
  sampleOut : t.run.sampleOut = s.run.sampleOut
  sc : t.run.sc = s.run.sc
  bg : t.run.bg = s.run.bg
  sdec : t.run.sdec = s.run.sdec
  iqdcMaxCnt : t.run.iqdcMaxCnt = s.run.iqdcMaxCnt
  lpiqWp : t.run.lpiqWp = s.run.lpiqWp
  lpfmWp : t.run.lpfmWp = s.run.lpfmWp

/-- One stage of a running command. -/
inductive Move : State → State → Prop where
  | quiet {s t : State} (h : Quiet s t) : Move s t
  /-- A moment in which the HOST can act (rule R16) is taken off the queue. -/
  | moment {s : State} {es : List HostEvent} {later : List (List HostEvent)} (h : s.during = es :: later) :
    Move s { s with during := later }
  /-- The end of the stream or the loss of the signal (rules R141, R201). -/
  | ended {s : State} (st : Status) (hs : s.status.session ≠ .uninit) (hst : st.session = .ended)
    (hb : st.busy = s.status.busy) : Move s { s with status := st }
  /-- HDR is the HOST's to write, and COEF is written in UNINIT only (rules R62, R91). -/
  | write (s : State) {id : MemId} (i : Nat) (ws : List Word) (h : id ≠ .hdr ∧ id ≠ .coef) :
    Move s (s.writeWords id i ws)
  | estimate (s : State) (x y : Word) : Move s (s.iqdcUpdate x y)
  /-- SDEC advances (rule R149). -/
  | rotated {s : State} {n : Nat} (h : s.cfg.decim = true) (hn : n = s.size.taps0.toNat * s.size.rotLen.toNat) :
    Move s { s with run := { s.run with sdec := BitVec.ofNat 32 ((s.run.sdec.toNat + 1) % n) } }
  /-- LPIQ_WP advances (rule R164). -/
  | iqPointer {s : State} (h : s.cfg.lpIq = true) : Move s { s with run := { s.run with
      lpiqWp := BitVec.ofNat 32 ((s.run.lpiqWp.toNat + 1) % s.size.taps1.toNat) } }
  /-- LPFM_WP advances (rule R167). -/
  | fmPointer {s : State} (h : s.cfg.lpFm = true) : Move s { s with run := { s.run with
      lpfmWp := BitVec.ofNat 32 ((s.run.lpfmWp.toNat + 1) % s.size.taps3.toNat) } }
  /-- The end of a sample step (rules R160, R171). -/
  | append (s : State) (v : Word) : Move s (s.appendSample s.run.sampleIn v)
  | restart (s : State) : Move s s.restartClock
  /-- BG advances by one symbol (rule R213). -/
  | symbol {s : State} {b : BitVec 48} (h : s.run.bg.toNat ≤ b.toNat) : Move s { s with run := { s.run with bg := b } }
  | tick {s : State} (h : s.scBelowBg = true) (hsc : s.run.sc.toNat + 1 < 2 ^ 32) : Move s s.tickSc

/-- Any number of moves. -/
abbrev Moves : State → State → Prop := Relation.ReflTransGen Move

theorem Quiet.refl (s : State) : Quiet s s := by constructor <;> rfl

theorem Quiet.moves {s t : State} (h : Quiet s t) : Moves s t := .single (.quiet h)

theorem BusyAccess.quiet {s t : State} (h : BusyAccess s t) : Quiet s t := by
  obtain ⟨a, f, c, i, r, n, rfl⟩ := h
  constructor <;> rfl

theorem moves_writeWords (s : State) {id : MemId} (i : Nat) (ws : List Word) (h : id ≠ .hdr ∧ id ≠ .coef) :
    Moves s (s.writeWords id i ws) := .single (.write s i ws h)

theorem moves_writeCxs (s : State) {id : MemId} (i : Nat) (cs : List Cx) (h : id ≠ .hdr ∧ id ≠ .coef) :
    Moves s (s.writeCxs id i cs) := moves_writeWords s _ _ h

/-! ### What every move keeps -/

/-- The parameters, the configuration, the sizes, BUSY, HDR and COEF stay, a session stays one and none opens, the
memories stay canonical, and the HOST's moments are taken from the front of their queue. -/
structure MoveKeeps (s t : State) : Prop where
  inst : t.inst = s.inst
  busy : t.status.busy = s.status.busy
  session : t.status.session = .uninit ↔ s.status.session = .uninit
  cfg : t.cfg = s.cfg
  size : t.size = s.size
  hdr : t.mem.hdr = s.mem.hdr
  coef : t.mem.coef = s.mem.coef
  wf : s.mem.wf → t.mem.wf
  during : t.during <:+ s.during

theorem MoveKeeps.refl (s : State) : MoveKeeps s s := ⟨rfl, rfl, .rfl, rfl, rfl, rfl, rfl, id, List.suffix_rfl⟩

theorem MoveKeeps.trans {s t u : State} (h : MoveKeeps s t) (k : MoveKeeps t u) : MoveKeeps s u :=
  ⟨k.inst.trans h.inst, k.busy.trans h.busy, k.session.trans h.session, k.cfg.trans h.cfg, k.size.trans h.size,
    k.hdr.trans h.hdr, k.coef.trans h.coef, k.wf ∘ h.wf, k.during.trans h.during⟩

/-- A change of the run-time registers keeps all of it. -/
theorem MoveKeeps.of_run (s : State) (r : Run) : MoveKeeps s { s with run := r } :=
  ⟨rfl, rfl, .rfl, rfl, rfl, rfl, rfl, id, List.suffix_rfl⟩

/-- A write to a memory other than HDR and COEF keeps all of it. -/
theorem MoveKeeps.writeWords (s : State) {id : MemId} (i : Nat) (ws : List Word) (h : id ≠ .hdr ∧ id ≠ .coef) :
    MoveKeeps s (s.writeWords id i ws) :=
  ⟨rfl, rfl, .rfl, rfl, rfl, Mems.get_set_of_ne s.mem id .hdr _ h.1.symm,
    Mems.get_set_of_ne s.mem id .coef _ h.2.symm, State.wf_writeWords s id i ws, List.suffix_rfl⟩

/-- The estimator's window length stays, or doubles while it is below its limit (rule R146). -/
theorem iqdcUpdate_eq (s : State) (x y : Word) : ∃ avgX avgY sumX sumY cnt m,
    s.iqdcUpdate x y = { s with run := { s.run with
      iqdcAvgX := avgX, iqdcAvgY := avgY, iqdcSumX := sumX, iqdcSumY := sumY, iqdcCnt := cnt, iqdcMaxCnt := m } }
      ∧ (m = s.run.iqdcMaxCnt
        ∨ s.run.iqdcMaxCnt.toNat < s.iqdcLimit ∧ m = s.run.iqdcMaxCnt + s.run.iqdcMaxCnt) := by
  unfold State.iqdcUpdate
  dsimp only
  split
  · unfold State.closeWindow
    dsimp only
    split
    · rename_i hlt
      exact ⟨_, _, _, _, _, _, rfl, .inr ⟨hlt, rfl⟩⟩
    · exact ⟨_, _, _, _, _, _, rfl, .inl rfl⟩
  · exact ⟨s.run.iqdcAvgX, s.run.iqdcAvgY, _, _, _, s.run.iqdcMaxCnt, rfl, .inl rfl⟩

theorem Move.keeps {s t : State} (h : Move s t) : MoveKeeps s t := by
  cases h with
  | quiet h =>
    exact ⟨h.inst, h.busy, by rw [h.session], h.cfg, h.size, congrArg Mems.hdr h.mem,
      congrArg Mems.coef h.mem, fun hw => h.mem ▸ hw, h.during ▸ List.suffix_rfl⟩
  | moment h => exact ⟨rfl, rfl, .rfl, rfl, rfl, rfl, rfl, id, h ▸ List.suffix_cons _ _⟩
  | ended st hs hst hb => exact ⟨rfl, hb, by simp [hst, hs], rfl, rfl, rfl, rfl, id, List.suffix_rfl⟩
  | write i ws h => exact MoveKeeps.writeWords s i ws h
  | estimate x y =>
    obtain ⟨avgX, avgY, sumX, sumY, cnt, m, e, -⟩ := iqdcUpdate_eq s x y
    rw [e]
    exact MoveKeeps.of_run s _
  | append v => exact (MoveKeeps.writeWords s _ [v] (by decide)).trans (MoveKeeps.of_run _ _)
  | _ => exact MoveKeeps.of_run s _

theorem Moves.keeps {s t : State} (h : Moves s t) : MoveKeeps s t := by
  induction h with
  | refl => exact MoveKeeps.refl s
  | tail _ hm ih => exact ih.trans hm.keeps

end Sys2Proof.Machine
end

section
/-! SUPPORT. The stages of the commands as moves: the sample step, the correlation step, the search, the slicer, the
tables of INIT. -/

namespace Sys2Proof.Machine

/-! ### The sample step -/

/-- The SOURCE moves on (rule R141). -/
theorem quiet_srcPos (s : State) (n : Nat) : Quiet s { s with srcPos := n } := by constructor <;> rfl

/-- A stage that can only end or yield EOS, in a session (rule R141). -/
theorem EosSpec.moves {s t : State} (h : EosSpec s t) (hs : s.status.session ≠ .uninit) : Moves s t := by
  rcases h.status with hst | ⟨rfl, -⟩
  · rw [h.eq, hst]
    exact (quiet_srcPos s t.srcPos).moves.tail (.ended _ hs rfl rfl)
  · exact .refl

theorem readComplex_moves (s : State) (f : Frame) : Moves s (s.readComplex f).2 := .single (.estimate s _ _)

theorem rotateIn_moves {s : State} (f : Frame) (hd : s.cfg.decim = true) : Moves s (s.rotateIn f) := by
  have hw : Moves s _ := (readComplex_moves s f).trans (moves_writeCxs (s.readComplex f).2
    ((s.readComplex f).2.run.sdec.toNat % s.size.taps0.toNat)
    [cmul (s.readComplex f).1
      ((s.readComplex f).2.readCx .rot ((s.readComplex f).2.run.sdec.toNat % s.size.rotLen.toNat))]
    (show MemId.decbuf ≠ .hdr ∧ MemId.decbuf ≠ .coef by decide))
  exact hw.tail (.rotated (hw.keeps.cfg ▸ hd) (by rw [hw.keeps.size]))

theorem foldl_rotateIn_moves (fs : List Frame) (s : State) (hd : s.cfg.decim = true) :
    Moves s (fs.foldl State.rotateIn s) := by
  induction fs generalizing s with
  | nil => exact .refl
  | cons f r ih =>
    have h := rotateIn_moves f hd
    exact h.trans (ih _ (h.keeps.cfg ▸ hd))

theorem pull_some_moves {n : Nat} {s t : State} {fs : List Frame} (h : pull n s = (some fs, t)) : Moves s t := by
  obtain ⟨rfl, -, -⟩ := pull_some h
  exact (quiet_srcPos s _).moves

theorem pullOne_some_moves {s t : State} {f : Frame} (h : pullOne s = (some f, t)) : Moves s t := by
  obtain ⟨rfl, -⟩ := pullOne_some h
  exact (quiet_srcPos s _).moves

/-- `Acquire()` that yields a sample (rules R149, R151). -/
theorem acquire_some_moves {s t : State} {z : Cx} (h : acquire s = (some z, t)) : Moves s t := by
  unfold acquire at h
  split at h
  · rename_i hd
    unfold acquireDecim at h
    split at h
    · cases h
    · rename_i u hp
      cases h
      have hm := pull_some_moves hp
      exact hm.trans (foldl_rotateIn_moves _ _ (hm.keeps.cfg ▸ hd))
  · split at h
    · rename_i u hp
      cases h
      exact (pullOne_some_moves hp).trans (readComplex_moves _ _)
    · cases h

theorem ifStage_moves (s : State) (z : Cx) : Moves s (s.ifStage z).2 := by
  unfold State.ifStage
  split
  · rename_i hl
    exact (moves_writeCxs s s.run.lpiqWp.toNat [z] (by decide)).tail (.iqPointer hl)
  · exact .refl

theorem fmStage_moves (s : State) (v : Word) : Moves s (s.fmStage v).2 := by
  unfold State.fmStage
  split
  · rename_i hl
    exact (moves_writeWords s s.run.lpfmWp.toNat [v] (by decide)).tail (.fmPointer hl)
  · exact .refl

theorem iqStages_moves (s : State) (n : Word) (z : Cx) : Moves s (s.iqStages n z).2 := by
  unfold State.iqStages
  exact (((ifStage_moves s (s.derotated n z)).trans (moves_writeCxs _ _ [_] (by decide))).trans
    (moves_writeWords _ _ [_] (by decide))).trans (fmStage_moves _ _)

/-- The end of a sample step, the two counters as they were at its start. -/
theorem appendSample_moves {s t : State} {n : Word} (h : Moves s t) (hn : t.run.sampleIn = n) (v : Word) :
    Moves s (t.appendSample n v) := by
  subst hn
  exact h.tail (.append t v)

theorem demodStep_some_moves {s t : State} {v : Word} (h : demodStep s = (some v, t)) : Moves s t := by
  unfold demodStep at h
  dsimp only at h
  split at h
  · split at h
    · cases h
    · rename_i z u hp
      obtain ⟨-, k, hk⟩ := acquire_some hp
      cases h
      exact appendSample_moves ((acquire_some_moves hp).trans (iqStages_moves _ _ _))
        (hk.trans (iqStages_spec _ _ _)).counters.sampleIn _
  · split at h
    · cases h
    · rename_i f u hp
      obtain ⟨rfl, -⟩ := pullOne_some hp
      cases h
      exact appendSample_moves (quiet_srcPos s _).moves rfl _

/-- A sample step in a session, completed or not. -/
theorem demodStep_moves {s t : State} {r : Option Word} (hs : s.status.session ≠ .uninit) (h : demodStep s = (r, t)) :
    Moves s t := by
  cases r with
  | none => exact (demodStep_none h).moves hs
  | some v => exact demodStep_some_moves h

/-! ### The correlation step -/

theorem forwardReal_moves (s : State) {dst : MemId} (len : Nat) (h : dst ≠ .hdr ∧ dst ≠ .coef) :
    Moves s (s.forwardReal dst len) := moves_writeCxs s 0 _ h

theorem inverse_moves (s : State) {dst : MemId} (src : MemId) (h : dst ≠ .hdr ∧ dst ≠ .coef) :
    Moves s (s.inverse dst src) := moves_writeCxs s 0 _ h

theorem spectrumProduct_moves (s : State) {dst : MemId} (src : MemId) (h : dst ≠ .hdr ∧ dst ≠ .coef) :
    Moves s (s.spectrumProduct dst src) := moves_writeCxs s 0 _ h

/-- A pass of the correlator (rule R185). -/
theorem corrPass_moves (s : State) (buf : MemId) (dcz : Bool) : Moves s (s.corrPass buf dcz).2 := by
  have hextract : Moves s (s.extract buf) :=
    (moves_writeWords s 0 _ (by decide)).trans (forwardReal_moves _ _ (by decide))
  have hremove (t : State) : Moves t t.removeDc :=
    ((moves_writeCxs t 0 [czero] (by decide)).trans (inverse_moves _ .x (by decide))).trans
      (moves_writeWords _ 0 _ (by decide))
  have hcorrelate (t : State) : Moves t t.correlate :=
    (spectrumProduct_moves t .x (by decide)).trans (inverse_moves _ .z (by decide))
  unfold State.corrPass
  cases dcz with
  | false => exact hextract.trans (hcorrelate _)
  | true => exact (hextract.trans (hremove _)).trans (hcorrelate _)

theorem bestPass_moves (s : State) (thres : Word) : Moves s (s.bestPass thres).2.2 := by
  have h := corrPass_moves s .bufs s.cfg.corrDcz
  unfold State.bestPass
  dsimp only
  split
  · split
    · exact h.trans (corrPass_moves _ _ _)
    · exact h.trans (corrPass_moves _ _ _)
  · exact h

theorem corrStep_moves (s : State) (thres : Word) : Moves s (s.corrStep thres).2 := by
  have hrecord (t : State) (dc : Word) (r : PassResult) : Quiet t ((t.recordDc dc).recordPeak r) := by
    obtain ⟨mv, mvPos, b, e⟩ := recordPeak_eq (t.recordDc dc) r
    rw [e]
    constructor <;> rfl
  exact (bestPass_moves s thres).tail (.quiet (hrecord _ _ _))

/-! ### The search -/

theorem candidate_quiet (s : State) (maxerr : Nat) : Quiet s (s.candidate maxerr).2 := by
  cases hc : (s.candidate maxerr).1 with
  | true =>
    obtain ⟨df, l, errs, -, e⟩ := candidate_true hc
    rw [e]
    constructor <;> rfl
  | false =>
    obtain ⟨df, l, e⟩ := candidate_false hc
    rw [e]
    constructor <;> rfl

theorem searchStep_moves (s : State) (thres : Word) (maxerr : Nat) : Moves s (s.searchStep thres maxerr).2 := by
  have hk : Quiet s { s with run := { s.run with kcnt := 0#32 } } := by constructor <;> rfl
  have h := hk.moves.trans (corrStep_moves _ thres)
  unfold State.searchStep
  dsimp only
  split
  · exact h.tail (.quiet (candidate_quiet _ _))
  · exact h

theorem afterSample_moves (s : State) (thres : Word) (maxerr : Nat) : Moves s (s.afterSample thres maxerr).2 := by
  have hcount : Quiet s s.countSample := by constructor <;> rfl
  unfold State.afterSample
  dsimp only
  split
  · exact hcount.moves.trans (searchStep_moves _ _ _)
  · exact hcount.moves

/-! ### The tables of INIT -/

theorem clearReals_moves (s : State) {id : MemId} (n : Nat) (h : id ≠ .hdr ∧ id ≠ .coef) : Moves s (s.clearReals id n) :=
  moves_writeWords s 0 _ h

theorem clearCxs_moves (s : State) {id : MemId} (n : Nat) (h : id ≠ .hdr ∧ id ≠ .coef) : Moves s (s.clearCxs id n) :=
  clearReals_moves s _ h

theorem initWindows_moves (s : State) : Moves s s.initWindows := by
  have hw (t : State) (w : Window) : Moves t (t.initWindow w) := moves_writeWords t _ _ (by decide)
  exact (((hw s _).trans (hw _ _)).trans (hw _ _)).trans (hw _ _)

theorem initRotation_moves (s : State) : Moves s s.initRotation := by
  unfold State.initRotation
  split
  · exact moves_writeCxs s 0 _ (by decide)
  · exact .refl

/-- The tables: TW, WROM, MATCH, FM and ROT. -/
theorem initTables_moves (s : State) : Moves s s.initTables := by
  have htw : Moves s s.initTwiddles := moves_writeCxs s 0 _ (by decide)
  have hmatch (t : State) : Moves t t.initTemplate := moves_writeWords t 0 _ (by decide)
  have hfm (t : State) : Moves t t.initSpectrum := moves_writeCxs t 0 _ (by decide)
  exact (((htw.trans (initWindows_moves _)).trans (hmatch _)).trans (hfm _)).trans (initRotation_moves _)

theorem initWork_moves (s : State) : Moves s s.initWork :=
  (((clearReals_moves s _ (by decide)).trans (clearCxs_moves _ _ (by decide))).trans
    (clearCxs_moves _ _ (by decide))).trans (clearCxs_moves _ _ (by decide))

theorem initBuffers_moves (s : State) : Moves s s.initBuffers :=
  ((clearReals_moves s _ (by decide)).trans (clearReals_moves _ _ (by decide))).trans (clearCxs_moves _ _ (by decide))

theorem initLines_moves (s : State) : Moves s s.initLines :=
  ((clearCxs_moves s _ (by decide)).trans (clearCxs_moves _ _ (by decide))).trans (clearReals_moves _ _ (by decide))

/-- INIT leaves HDR and COEF as they are (rule R234). -/
theorem initMems_moves (s : State) : Moves s s.initMems :=
  (((initTables_moves s).trans (initWork_moves _)).trans (initBuffers_moves _)).trans (initLines_moves _)

end Sys2Proof.Machine
end

section
/-! SUPPORT. Commands that run many sample steps, as moves; the HOST acts between the steps, and a hardware reset among
its events abandons the command (rules R16, R74, R281). -/

namespace Sys2Proof.Machine

/-! ### Where a stage and a command can end -/

/-- A hardware reset in a moment of the command has left `t` (rule R281). -/
def AbandonedFrom (s t : State) : Prop :=
  ∃ u es later, Moves s u ∧ u.during = es :: later ∧ HostEvent.hardReset ∈ es ∧ AfterReset { u with during := later } t

/-- A stage that begins at `s` ends after moves, or in a hardware reset, or stops the model. -/
def Flow.MovesFrom {α : Type} (s : State) : Flow α → Prop
  | .done _ u => Moves s u
  | .eos u => Moves s u
  | .reset u => AbandonedFrom s u
  | .stop _ => True

/-- The same of a command's own rule; a command fault changes nothing. -/
def CmdEnd.MovesFrom (s : State) : CmdEnd → Prop
  | .ret _ u => Moves s u
  | .raise _ => True
  | .abandoned u => AbandonedFrom s u
  | .stop _ => True

/-- A command runs in a session. -/
structure State.Running (s : State) : Prop where
  busy : s.status.busy = true
  session : s.status.session ≠ .uninit

theorem Moves.running {s t : State} (h : Moves s t) (hr : s.Running) : t.Running :=
  ⟨h.keeps.busy.trans hr.busy, mt h.keeps.session.1 hr.session⟩

theorem AbandonedFrom.after {s u t : State} (h : AbandonedFrom u t) (hm : Moves s u) : AbandonedFrom s t := by
  obtain ⟨v, es, later, hv, rest⟩ := h
  exact ⟨v, es, later, hm.trans hv, rest⟩

theorem Flow.MovesFrom.after {α : Type} {s u : State} {x : Flow α} (h : x.MovesFrom u) (hm : Moves s u) :
    x.MovesFrom s := by
  cases x with
  | done a t => exact hm.trans h
  | eos t => exact hm.trans h
  | reset t => exact AbandonedFrom.after h hm
  | stop f => trivial

theorem CmdEnd.MovesFrom.after {s u : State} {x : CmdEnd} (h : x.MovesFrom u) (hm : Moves s u) : x.MovesFrom s := by
  cases x with
  | ret code t => exact hm.trans h
  | raise c => trivial
  | abandoned t => exact AbandonedFrom.after h hm
  | stop f => trivial

theorem Flow.MovesFrom.bind {α β : Type} {s : State} {x : Flow α} {k : α → State → Flow β} (hx : x.MovesFrom s)
    (hk : ∀ a u, x = .done a u → (k a u).MovesFrom u) : (x.bind k).MovesFrom s := by
  cases x with
  | done a u => exact (hk a u rfl).after hx
  | eos u => exact hx
  | reset u => exact hx
  | stop f => trivial

theorem Flow.MovesFrom.finish {α : Type} {s : State} {x : Flow α} {k : α → State → CmdEnd} (hx : x.MovesFrom s)
    (hk : ∀ a u, x = .done a u → (k a u).MovesFrom u) : (x.finish k).MovesFrom s := by
  cases x with
  | done a u => exact (hk a u rfl).after hx
  | eos u => exact hx
  | reset u => exact hx
  | stop f => trivial

/-! ### The HOST's moments -/

theorem hardReset_mem_of_reset {es : List HostEvent} {s t : State} (h : duringEvents es s = .reset t) :
    HostEvent.hardReset ∈ es := by
  induction es generalizing s with
  | nil => cases h
  | cons e rest ih =>
    cases e with
    | read width addr => exact List.mem_cons_of_mem _ (ih h)
    | write width addr v => exact List.mem_cons_of_mem _ (ih h)
    | hardReset => exact List.mem_cons_self

/-- A moment in which the HOST can act (rule R16): accesses that no invariant speaks of, or a hardware reset. -/
theorem hostMoment_moves {s : State} (hb : s.status.busy = true) : (hostMoment s).MovesFrom s := by
  unfold hostMoment
  split
  · exact .refl
  · rename_i es later hd
    rcases duringEvents_cases es { s with during := later } hb with ⟨t, h, hacc⟩ | ⟨t, h, hreset⟩
    · rw [h]
      exact (Relation.ReflTransGen.single (.moment hd)).tail (.quiet hacc.quiet)
    · rw [h]
      exact ⟨s, es, later, .refl, hd, hardReset_mem_of_reset h, hreset⟩

/-- A moment that leaves the command running leaves the run-time registers alone. -/
theorem run_of_hostMoment_done {s t : State} (hb : s.status.busy = true) (h : hostMoment s = .done () t) :
    t.run = s.run := by
  rcases hostMoment_cases s hb with ⟨u, hu, a, f, c, i, r, n, e⟩ | ⟨u, hu, -⟩
  · rw [hu] at h
    cases h
    rw [e]
  · rw [hu] at h
    cases h

/-! ### The search loop -/

/-- The loop of FIND_HDR (rule R202), by its iterations. -/
theorem searchLoop_moves (thres : Word) (maxerr fuel : Nat) {s : State} (hr : s.Running) :
    (searchLoop thres maxerr fuel s).MovesFrom s := by
  induction fuel generalizing s with
  | zero => trivial
  | succ fuel ih =>
    have hm := hostMoment_moves hr.busy
    unfold searchLoop
    cases h : hostMoment s with
    | eos t => rw [h] at hm; exact hm
    | reset t => rw [h] at hm; exact hm
    | stop f => trivial
    | done a t =>
      rw [h] at hm
      have ht : t.Running := Moves.running hm hr
      refine CmdEnd.MovesFrom.after (u := t) ?_ hm
      dsimp only
      split
      · exact .single (.ended _ ht.session rfl rfl)
      · cases hd : demodStep t with
        | mk r u =>
          have hu := demodStep_moves ht.session hd
          cases r with
          | none => exact hu
          | some v =>
            have hv := hu.trans (afterSample_moves u thres maxerr)
            dsimp only
            cases ha : u.afterSample thres maxerr with
            | mk found w =>
              rw [ha] at hv
              cases found with
              | true => exact hv
              | false => exact (ih (Moves.running hv ht)).after hv

/-! ### The slicer -/

theorem nextSample_moves (ofs : Word) {s : State} (hr : s.Running) : (nextSample ofs s).MovesFrom s := by
  unfold nextSample
  split
  · exact Quiet.moves (by constructor <;> rfl)
  · refine (hostMoment_moves hr.busy).bind fun _ t ht => ?_
    have hm := hostMoment_moves hr.busy
    rw [ht] at hm
    refine Flow.MovesFrom.bind ?_ fun _ u _ => .refl
    cases hd : demodStep t with
    | mk r u =>
      have hu := demodStep_moves (Moves.running hm hr).session hd
      cases r <;> exact hu

/-- Taking a sample leaves the symbol clock alone (rule R212). -/
theorem scBelowBg_of_nextSample {ofs idx : Word} {s t : State} (hb : s.status.busy = true)
    (h : nextSample ofs s = .done idx t) : t.scBelowBg = s.scBelowBg := by
  unfold nextSample at h
  split at h
  · cases h
    rfl
  · cases hm : hostMoment s with
    | eos u => rw [hm] at h; cases h
    | reset u => rw [hm] at h; cases h
    | stop f => rw [hm] at h; cases h
    | done a u =>
      have hrun := run_of_hostMoment_done hb hm
      rw [hm] at h
      have hkept := demodStep_kept u
      cases hd : demodStep u with
      | mk r v =>
        rw [hd] at hkept
        simp only [Flow.bind, hd] at h
        cases r with
        | none => cases h
        | some x =>
          cases h
          unfold State.scBelowBg
          rw [hkept.sc, hkept.bg, hrun]

/-- The loop over the samples of one symbol (rule R213): SC passes BG by less than one sample. -/
theorem integrateLoop_moves (add : Bool) (g : BitFlags) (ofs : Word) (l mid2 : Int) (fuel : Nat) (acc : Word) {s : State}
    (hr : s.Running) : (integrateLoop add g ofs l mid2 fuel acc s).MovesFrom s := by
  induction fuel generalizing acc s with
  | zero => exact .refl
  | succ fuel ih =>
    unfold integrateLoop
    split
    · rename_i hsc
      refine (nextSample_moves ofs hr).bind fun idx t ht => ?_
      have hm := nextSample_moves ofs hr
      rw [ht] at hm
      dsimp only
      split
      · rename_i hlt
        have htick : Moves t t.tickSc := .single (.tick ((scBelowBg_of_nextSample hr.busy ht).trans hsc) hlt)
        exact (ih _ (htick.running (Moves.running hm hr))).after htick
      · trivial
    · exact .refl

theorem integrate_moves (add : Bool) (g : BitFlags) (ofs : Word) (l : Int) (acc : Word) {s : State} (hr : s.Running) :
    (integrate add g ofs l acc s).MovesFrom s := by
  unfold integrate
  dsimp only
  split
  · rename_i hlt
    have hsym : Moves s { s with run := { s.run with bg := BitVec.ofNat 48 (s.run.bg.toNat + s.cfg.sps.toNat) } } :=
      .single (.symbol (by rw [BitVec.toNat_ofNat, Nat.mod_eq_of_lt hlt]; omega))
    exact (integrateLoop_moves add g ofs l _ _ acc (hsym.running hr)).after hsym
  · trivial

/-- `ReadBit` (rule R215) after the clock's restart: one symbol or two. -/
theorem symbols_moves (g : BitFlags) (ofs : Word) (l : Int) {s : State} (hr : s.Running) :
    ((if s.cfg.symbols = 2 then integrate false g ofs l fzero s else .done fzero s).bind
      (integrate true g ofs l)).MovesFrom s := by
  split
  · have hfirst := integrate_moves false g ofs l fzero hr
    refine hfirst.bind fun acc u hu => ?_
    rw [hu] at hfirst
    exact integrate_moves true g ofs l acc (Moves.running hfirst hr)
  · exact integrate_moves true g ofs l fzero hr

theorem readBit_moves (g : BitFlags) (ofs : Word) (l : Int) {s : State} (hr : s.Running) :
    (readBit g ofs l s).MovesFrom s := by
  unfold readBit
  cases g.rst with
  | false => exact symbols_moves g ofs l hr
  | true =>
    have hstart : Moves s s.restartClock := .single (.restart s)
    exact (symbols_moves g ofs l (hstart.running hr)).after hstart

end Sys2Proof.Machine
end

section
/-! SUPPORT. How a command can end, said once: after moves, in a hardware reset, or as SRESET, INIT or LP_DESIGN. -/

namespace Sys2Proof.Machine

/-! ### The commands of a session -/

theorem bufferOf_ne {sel : Nibble} {b : MemId} (h : bufferOf sel = some b) : b ≠ .hdr ∧ b ≠ .coef := by
  unfold bufferOf at h
  split at h <;> cases h <;> decide

theorem withBuffer_moves {s : State} {sel : Nibble} {k : MemId → CmdEnd}
    (h : ∀ b, b ≠ .hdr ∧ b ≠ .coef → (k b).MovesFrom s) : (withBuffer sel k).MovesFrom s := by
  unfold withBuffer
  split
  · rename_i b hb
    exact h b (bufferOf_ne hb)
  · trivial

theorem withWindow_moves {s : State} {sel : Nibble} {k : Window → CmdEnd} (h : ∀ w, (k w).MovesFrom s) :
    (withWindow sel k).MovesFrom s := by
  unfold withWindow
  split
  · exact h _
  · trivial

theorem fftRBody_moves (dst : Nibble) (s : State) : (fftRBody dst s).MovesFrom s :=
  withBuffer_moves fun d hd => by
    split
    · trivial
    · exact forwardReal_moves s _ hd

theorem fftCBody_moves (dst src : Nibble) (s : State) : (fftCBody dst src s).MovesFrom s :=
  withBuffer_moves fun d hd => withBuffer_moves fun b _ => by
    split
    · trivial
    · exact moves_writeCxs s 0 _ hd

theorem ifftNBody_moves (dst src : Nibble) (s : State) : (ifftNBody dst src s).MovesFrom s :=
  withBuffer_moves fun _ hd => withBuffer_moves fun b _ => inverse_moves s b hd

theorem winRBody_moves (wsel : Nibble) (s : State) : (winRBody wsel s).MovesFrom s :=
  withWindow_moves fun _ => moves_writeWords s (id := .xn) 0 _ (by decide)

theorem winCBody_moves (dst wsel : Nibble) (s : State) : (winCBody dst wsel s).MovesFrom s :=
  withBuffer_moves fun _ hd => withWindow_moves fun _ => moves_writeCxs s 0 _ hd

theorem cmulBody_moves (dst src : Nibble) (s : State) : (cmulBody dst src s).MovesFrom s :=
  withBuffer_moves fun _ hd => withBuffer_moves fun b _ => spectrumProduct_moves s b hd

/-- RES is a result, of which no invariant speaks. -/
theorem quiet_res (s : State) (q : Quad) : Quiet s { s with res := q } := by constructor <;> rfl

theorem lpApplyBody_moves (bank : Nibble) (s : State) : (lpApplyBody bank s).MovesFrom s := by
  unfold lpApplyBody withBank
  split
  · dsimp only
    split
    · trivial
    · exact (quiet_res s _).moves
  · trivial

theorem rdSampleBody_moves {s : State} (hr : s.Running) : (rdSampleBody s).MovesFrom s := by
  unfold rdSampleBody
  split
  · exact .refl
  · split
    · rename_i f u hp
      exact (pullOne_some_moves hp).tail (.quiet (quiet_res u _))
    · rename_i u hp
      exact (pullOne_none hp).moves hr.session

theorem rdCsampleBody_moves {s : State} (hr : s.Running) : (rdCsampleBody s).MovesFrom s := by
  unfold rdCsampleBody
  split
  · trivial
  · split
    · exact .refl
    · split
      · rename_i f u hp
        exact ((pullOne_some_moves hp).trans (readComplex_moves u f)).tail (.quiet (quiet_res _ _))
      · rename_i u hp
        exact (pullOne_none hp).moves hr.session

theorem demodStepBody_moves {s : State} (hr : s.Running) : (demodStepBody s).MovesFrom s := by
  unfold demodStepBody
  split
  · exact .refl
  · split
    · rename_i v u hd
      exact (demodStep_moves hr.session hd).tail (.quiet (quiet_res u _))
    · rename_i u hd
      exact demodStep_moves hr.session hd

theorem corrStepBody_moves (s : State) : (corrStepBody s).MovesFrom s := by
  unfold corrStepBody
  split
  · trivial
  · exact (corrStep_moves s _).tail (.quiet (quiet_res _ _))

theorem headcmpBody_moves (s : State) : (headcmpBody s).MovesFrom s := (quiet_res s _).moves

theorem findHdrBody_moves {s : State} (hr : s.Running) : (findHdrBody s).MovesFrom s := by
  unfold findHdrBody
  split
  · trivial
  · split
    · exact .refl
    · have hstart : Moves s s.startSearch := Quiet.moves (by constructor <;> rfl)
      exact (searchLoop_moves _ _ _ (hstart.running hr)).after hstart

theorem rdHbitBody_moves (flags : Nibble) {s : State} (hr : s.Running) : (rdHbitBody flags s).MovesFrom s := by
  unfold rdHbitBody
  split
  · exact .refl
  · exact (readBit_moves _ _ _ hr).finish fun _ u _ => (quiet_res u _).moves

theorem rdSbitBody_moves (flags : Nibble) {s : State} (hr : s.Running) : (rdSbitBody flags s).MovesFrom s := by
  unfold rdSbitBody
  split
  · exact .refl
  · exact (readBit_moves _ _ _ hr).finish fun _ u _ => (quiet_res u _).moves

/-! ### How a command ends -/

/-- The states in which a command issued at `s` can leave the block. -/
inductive CommandEnd (i : Instr) (s : State) : State → Prop where
  | ran {u : State} (code : Word) (h : Moves s.beginCommand u) : CommandEnd i s (u.endCommand code)
  | abandoned {t : State} (h : AbandonedFrom s.beginCommand t) : CommandEnd i s t
  | sreset (h : i = .sreset) : CommandEnd i s (s.beginCommand.hardwareReset.endCommand rcOk)
  /-- INIT opens a session (rule R234). -/
  | opened (hu : s.status.session = .uninit) (hc : s.beginCommand.ConfigLegal) (hk : s.beginCommand.CapacityLegal) :
    CommandEnd i s (s.beginCommand.openSession.endCommand rcOk)
  /-- LP_DESIGN writes a bank (rule R122). -/
  | designed (hu : s.status.session = .uninit) (b : Bank) (f : Word) (n : Nat) (v : Word) :
    CommandEnd i s (((s.beginCommand.designBank b f n).setRes0 v).endCommand rcOk)

/-- A command fault is a record (rule R256). -/
theorem CommandEnd.faulted (i : Instr) (s : State) (c : Cause) (w : Word) :
    CommandEnd i s (s.beginCommand.commandFault c w) :=
  .ran rcFaulted (Quiet.moves (by constructor <;> rfl))

theorem CommandEnd.of_moves {i : Instr} {s t : State} {w : Word} {e : CmdEnd} (he : e.MovesFrom s.beginCommand)
    (h : finishCommand w s.beginCommand e = .next t) : CommandEnd i s t := by
  cases e with
  | ret code u => cases h; exact .ran code he
  | raise c => cases h; exact .faulted i s c w
  | abandoned u => cases h; exact .abandoned he
  | stop f => cases h

/-- The dispatch sequence (rule R230): the gate and the faults change no more than a record, and the rule of the command
decides the rest. -/
theorem runCommand_ends {i : Instr} {body : State → CmdEnd} {s t : State} (h : runCommand i body s = .next t)
    (hbody : legalIn i s.status.session = true →
      finishCommand (encode i) s.beginCommand (body s.beginCommand) = .next t → CommandEnd i s t) :
    CommandEnd i s t := by
  unfold runCommand at h
  dsimp only at h
  split at h
  · cases h
    exact .ran _ .refl
  · split at h
    · cases h
      exact .faulted i s _ _
    · split at h
      · cases h
        exact .faulted i s _ _
      · rename_i hl
        exact hbody (by simpa using hl) h

theorem runCommand_session {i : Instr} {body : State → CmdEnd} {s t : State} (h : runCommand i body s = .next t)
    (hi : legalIn i s.status.session = true → s.status.session ≠ .uninit)
    (hbody : s.beginCommand.Running → (body s.beginCommand).MovesFrom s.beginCommand) : CommandEnd i s t :=
  runCommand_ends h fun hl => .of_moves (hbody ⟨rfl, hi hl⟩)

theorem lpDesign_ends {bank : Nibble} {s t : State} {w : Word} (hu : s.status.session = .uninit)
    (h : finishCommand w s.beginCommand (lpDesignBody bank s.beginCommand) = .next t) :
    CommandEnd (.lpDesign bank) s t := by
  unfold lpDesignBody withBank at h
  split at h
  · dsimp only at h
    split at h
    · cases h; exact .faulted _ s _ w
    · split at h
      · cases h; exact .ran _ .refl
      · split at h
        · cases h; exact .faulted _ s _ w
        · cases h; exact .designed hu _ _ _ _
  · cases h; exact .faulted _ s _ w

theorem init_ends {s t : State} {w : Word} (hu : s.status.session = .uninit)
    (h : finishCommand w s.beginCommand (initBody s.beginCommand) = .next t) : CommandEnd .init s t := by
  unfold initBody at h
  split at h
  · cases h; exact .ran _ .refl
  · rename_i hv
    split at h
    · cases h; exact .ran _ .refl
    · rename_i hk
      cases h
      exact .opened hu ((configValid_iff _).1 (Bool.eq_true_of_not_eq_false hv))
        ((capacityOk_iff _).1 (Bool.eq_true_of_not_eq_false hk))

/-- How each command can end. -/
theorem exec_ends {i : Instr} {s t : State} (h : exec i s = .next t) : CommandEnd i s t := by
  cases i with
  | nop => exact runCommand_ends h fun _ => .of_moves (e := nopBody s.beginCommand) .refl
  | init => exact runCommand_ends h fun hl => init_ends (of_decide_eq_true hl)
  | sreset => exact runCommand_ends h fun _ ht => by cases ht; exact .sreset rfl
  | fftR dst => exact runCommand_session h of_decide_eq_true fun _ => fftRBody_moves dst _
  | fftC dst src => exact runCommand_session h of_decide_eq_true fun _ => fftCBody_moves dst src _
  | ifftN dst src => exact runCommand_session h of_decide_eq_true fun _ => ifftNBody_moves dst src _
  | winR wsel => exact runCommand_session h of_decide_eq_true fun _ => winRBody_moves wsel _
  | winC dst wsel => exact runCommand_session h of_decide_eq_true fun _ => winCBody_moves dst wsel _
  | cmul dst src => exact runCommand_session h of_decide_eq_true fun _ => cmulBody_moves dst src _
  | lpDesign bank => exact runCommand_ends h fun hl => lpDesign_ends (of_decide_eq_true hl)
  | lpApply bank => exact runCommand_session h of_decide_eq_true fun _ => lpApplyBody_moves bank _
  | rdSample => exact runCommand_session h of_decide_eq_true rdSampleBody_moves
  | rdCsample => exact runCommand_session h of_decide_eq_true rdCsampleBody_moves
  | demodStep => exact runCommand_session h of_decide_eq_true demodStepBody_moves
  | corrStep => exact runCommand_session h of_decide_eq_true fun _ => corrStepBody_moves _
  | headcmp => exact runCommand_session h of_decide_eq_true fun _ => headcmpBody_moves _
  | findHdr => exact runCommand_session h of_decide_eq_true findHdrBody_moves
  | rdHbit flags => exact runCommand_session h of_decide_eq_true (rdHbitBody_moves flags)
  | rdSbit flags => exact runCommand_session h of_decide_eq_true (rdSbitBody_moves flags)

end Sys2Proof.Machine
end

section
/-! SUPPORT. What a step can do, and the invariants that every step keeps: the canonical form of the memories, and rule
R57. -/

namespace Sys2Proof.Machine

/-! ### How a step ends -/

/-- What one event of the HOST can do to the block. -/
inductive StepEnd (s : State) : State → Prop where
  | command {i : Instr} {t : State} (h : CommandEnd i s t) : StepEnd s t
  | reset : StepEnd s s.hardwareReset
  /-- A read, a forbidden access, a write to CTRL or to an ARG register. -/
  | access {t : State} (h : Quiet s t) : StepEnd s t
  /-- A write to a CFG register (rule R255). -/
  | configured (c : Cfg) (hu : s.status.session = .uninit) : StepEnd s { s with cfg := c }
  /-- A write to a memory (rule R62). -/
  | stored (id : MemId) (i : Nat) (w : Word) : StepEnd s (s.writeWords id i [w])

theorem busWrite_ends (s : State) (width addr : Nat) (v : Word) : StepEnd s (s.busWrite width addr v) := by
  have hfault : StepEnd s (s.hostFault (offsetOf addr)) := .access (hostFault_access s _).quiet
  unfold State.busWrite
  split
  · unfold State.hostWrite
    split
    · exact hfault
    · split
      · rename_i t ht
        rcases windowWrite_cases s t _ v ht with ⟨a, rfl⟩ | ⟨q, rfl⟩ | ⟨c, rfl, hu⟩ | ⟨id, i, w, rfl, -⟩
        · exact .access (by constructor <;> rfl)
        · exact .access (by constructor <;> rfl)
        · exact .configured c hu
        · exact .stored id i w
      · exact hfault
  · exact .access (Quiet.refl s)

/-- A word that is no command leaves a record (rules R92, R230). -/
theorem runIllegal_ends {w : Word} {s t : State} (h : runIllegal w s = .next t) : CommandEnd .nop s t := by
  unfold runIllegal at h
  dsimp only at h
  split at h
  · cases h
    exact .ran _ .refl
  · cases h
    exact .faulted _ s _ w

theorem perform_ends {e : HostEvent} {s t : State} (h : perform e s = .next t) : StepEnd s t := by
  cases e with
  | hardReset => cases h; exact .reset
  | read width addr => cases h; exact .access (busRead_access s width addr).quiet
  | write width addr v =>
    unfold perform at h
    dsimp only at h
    split at h
    · unfold issue at h
      split at h
      · exact .command (exec_ends h)
      · exact .command (runIllegal_ends h)
    · cases h
      exact busWrite_ends s width addr v

/-- A step waits, or takes the HOST's next event off the queue and does what it says (rule R15). -/
theorem step_ends {s t : State} (h : step s = .next t) : ∃ u, Quiet s u ∧ StepEnd u t := by
  unfold step at h
  split at h
  · cases h
    exact ⟨s, Quiet.refl s, .access (Quiet.refl s)⟩
  · rename_i e later _
    exact ⟨{ s with host := later }, by constructor <;> rfl, perform_ends h⟩

/-! ### The canonical form -/

theorem mems_reset_wf : Mems.reset.wf := (Mems.wf_iff _).2 fun id => by rw [Mems.get_reset]; exact .nil

theorem AbandonedFrom.afterReset {s t : State} (h : AbandonedFrom s t) :
    t.inst = s.inst ∧ t.status = Status.reset ∧ t.run = Run.reset ∧ t.mem = Mems.reset := by
  obtain ⟨u, es, later, hm, -, -, r, n, q, rfl⟩ := h
  exact ⟨hm.keeps.inst, rfl, rfl, rfl⟩

theorem CommandEnd.wf {i : Instr} {s t : State} (h : CommandEnd i s t) (hw : s.mem.wf) : t.mem.wf := by
  cases h with
  | ran code h => exact h.keeps.wf hw
  | abandoned h =>
    obtain ⟨-, -, -, hmem⟩ := h.afterReset
    exact hmem ▸ mems_reset_wf
  | sreset h => exact mems_reset_wf
  | opened hu hc hk =>
    rw [endCommand_mem]
    exact openSession_wf _ hw
  | designed hu b f n v =>
    rw [endCommand_mem, setRes0_mem]
    exact State.wf_writeWords s.beginCommand .coef _ _ hw

theorem StepEnd.wf {s t : State} (h : StepEnd s t) (hw : s.mem.wf) : t.mem.wf := by
  cases h with
  | command h => exact h.wf hw
  | reset => exact mems_reset_wf
  | access h => exact h.mem ▸ hw
  | configured c hu => exact hw
  | stored id i w => exact State.wf_writeWords s id i [w] hw

/-! ### Rule R57, move by move -/

/-- A doubled window length does not wrap, IQDC_MAXLIM being below 2^31 (rules R48, R232). -/
theorem toNat_double {s : State} (h : s.StagesOk) (hlt : s.run.iqdcMaxCnt.toNat < s.iqdcLimit) :
    (s.run.iqdcMaxCnt + s.run.iqdcMaxCnt).toNat = 2 * s.run.iqdcMaxCnt.toNat := by
  obtain ⟨-, -, hrate, -⟩ := h
  rw [BitVec.toNat_add, Nat.mod_eq_of_lt (by unfold State.iqdcLimit at hlt; omega)]
  omega

/-- A pointer that advances within a line of `n` entries stays within it. -/
theorem toNat_advance_lt {p n : Nat} (hn : 1 ≤ n) (hle : n ≤ 2 ^ 32) :
    (BitVec.ofNat 32 ((p + 1) % n)).toNat < max 1 n := by
  have := Nat.mod_lt (p + 1) hn
  rw [BitVec.toNat_ofNat, Nat.mod_eq_of_lt (by omega)]
  omega

/-- Everything that rule R57 speaks of is as before. -/
structure SessionSame (s t : State) : Prop where
  inst : t.inst = s.inst
  session : t.status.session = s.status.session
  cfg : t.cfg = s.cfg
  size : t.size = s.size
  sampleIn : t.run.sampleIn = s.run.sampleIn
  sampleOut : t.run.sampleOut = s.run.sampleOut
  sc : t.run.sc = s.run.sc
  bg : t.run.bg = s.run.bg
  sdec : t.run.sdec = s.run.sdec
  iqdcMaxCnt : t.run.iqdcMaxCnt = s.run.iqdcMaxCnt
  lpiqWp : t.run.lpiqWp = s.run.lpiqWp
  lpfmWp : t.run.lpfmWp = s.run.lpfmWp

theorem Quiet.sessionSame {s t : State} (h : Quiet s t) : SessionSame s t :=
  ⟨h.inst, h.session, h.cfg, h.size, h.sampleIn, h.sampleOut, h.sc, h.bg, h.sdec, h.iqdcMaxCnt, h.lpiqWp, h.lpfmWp⟩

theorem SessionSame.clockOk {s t : State} (h : SessionSame s t) (hc : s.ClockOk) : t.ClockOk := by
  rwa [State.ClockOk, h.sc, h.bg]

theorem SessionSame.sessionOk {s t : State} (h : SessionSame s t) (hs : s.SessionOk) : t.SessionOk := by
  obtain ⟨sizes, readPosition, window, pointers, stages⟩ := hs
  refine ⟨?_, ?_, ?_, ?_, ?_⟩
  · rwa [State.SizesOk, h.size]
  · rwa [State.ReadPositionOk, h.sampleOut, h.sampleIn, h.cfg]
  · rwa [State.WindowOk, State.iqdcLimit, h.iqdcMaxCnt, h.cfg, h.size]
  · rwa [State.PointersOk, h.lpiqWp, h.lpfmWp, h.sdec, h.size]
  · rwa [State.StagesOk, h.cfg, h.size]

theorem Move.sessionOk {s t : State} (h : Move s t) (hs : s.SessionOk) : t.SessionOk := by
  have ⟨sizes, readPosition, window, pointers, stages⟩ := hs
  have ⟨hiq, hfm, hdec⟩ := pointers
  have ⟨_, _, _, hlpIq, hlpFm, hdecim⟩ := stages
  cases h with
  | quiet h => exact h.sessionSame.sessionOk hs
  | estimate x y =>
    obtain ⟨avgX, avgY, sumX, sumY, cnt, m, e, hm⟩ := iqdcUpdate_eq s x y
    rw [e]
    refine ⟨sizes, readPosition, ?_, pointers, stages⟩
    rcases hm with rfl | ⟨hlt, rfl⟩
    · exact window
    · change (s.run.iqdcMaxCnt + s.run.iqdcMaxCnt).toNat < 2 * s.iqdcLimit
      rw [toNat_double stages hlt]
      omega
  | rotated h hn =>
    obtain ⟨htaps, hlen, hlt⟩ := hdecim h
    subst hn
    exact ⟨sizes, readPosition, window, ⟨hiq, hfm, toNat_advance_lt (Nat.mul_pos htaps hlen) (by omega)⟩, stages⟩
  | iqPointer h =>
    exact ⟨sizes, readPosition, window, ⟨toNat_advance_lt (hlpIq h) (by omega), hfm, hdec⟩, stages⟩
  | fmPointer h =>
    exact ⟨sizes, readPosition, window, ⟨hiq, toNat_advance_lt (hlpFm h) (by omega), hdec⟩, stages⟩
  | append v =>
    refine ⟨sizes, ?_, window, pointers, stages⟩
    change s.run.sampleIn - s.cfg.delay = s.run.sampleIn + 1#32 - 1#32 - s.cfg.delay
    rw [BitVec.add_sub_cancel]
  | _ => exact ⟨sizes, readPosition, window, pointers, stages⟩

/-- IQDC_MAXCNT does not decrease (rule R57 d). -/
theorem Move.maxCnt_le {s t : State} (h : Move s t) (hs : s.SessionOk) :
    s.run.iqdcMaxCnt.toNat ≤ t.run.iqdcMaxCnt.toNat := by
  cases h with
  | quiet h => rw [h.iqdcMaxCnt]
  | estimate x y =>
    obtain ⟨avgX, avgY, sumX, sumY, cnt, m, e, hm⟩ := iqdcUpdate_eq s x y
    rw [e]
    rcases hm with rfl | ⟨hlt, rfl⟩
    · exact le_rfl
    · change _ ≤ (s.run.iqdcMaxCnt + s.run.iqdcMaxCnt).toNat
      rw [toNat_double hs.stages hlt]
      omega
  | _ => exact le_rfl

theorem clockOk_of_zero {s : State} (h : s.run.sc = 0#32) : s.ClockOk := by
  rw [State.ClockOk, h]
  simp

/-- SC stays at most the ceiling of BG (rule R57 f): it advances only below BG. -/
theorem Move.clockOk {s t : State} (h : Move s t) (hc : s.ClockOk) : t.ClockOk := by
  cases h with
  | quiet h => exact h.sessionSame.clockOk hc
  | estimate x y =>
    obtain ⟨avgX, avgY, sumX, sumY, cnt, m, e, -⟩ := iqdcUpdate_eq s x y
    rw [e]
    exact hc
  | restart => exact clockOk_of_zero rfl
  | @symbol b h =>
    change 65536 * s.run.sc.toNat ≤ b.toNat + 65535
    unfold State.ClockOk at hc
    omega
  | tick h hsc =>
    change 65536 * (s.run.sc + 1#32).toNat ≤ s.run.bg.toNat + 65535
    have hlt := of_decide_eq_true h
    rw [BitVec.toNat_add, show (1#32).toNat = 1 from rfl, Nat.mod_eq_of_lt hsc]
    omega
  | _ => exact hc

/-! ### Rule R57, step by step -/

/-- The invariants go over from `s` to `t`, and the estimator's window does not shrink within a session. -/
structure InvKept (s t : State) : Prop where
  inv : s.Inv → t.Inv
  maxCnt : s.Inv → s.status.session ≠ .uninit → t.status.session ≠ .uninit →
    s.run.iqdcMaxCnt.toNat ≤ t.run.iqdcMaxCnt.toNat

theorem Move.invKept {s t : State} (h : Move s t) : InvKept s t where
  inv hi :=
    { legal := h.keeps.inst ▸ hi.legal
      clock := h.clockOk hi.clock
      session := fun ht => h.sessionOk (hi.session (mt h.keeps.session.2 ht)) }
  maxCnt hi hs _ := h.maxCnt_le (hi.session hs)

theorem InvKept.trans {s t u : State} (h : InvKept s t) (k : InvKept t u)
    (ht : t.status.session = .uninit → u.status.session = .uninit) : InvKept s u :=
  ⟨k.inv ∘ h.inv, fun hi hs hu => (h.maxCnt hi hs (mt ht hu)).trans (k.maxCnt (h.inv hi) (mt ht hu) hu)⟩

theorem Moves.invKept {s t : State} (h : Moves s t) : InvKept s t := by
  induction h with
  | refl => exact ⟨id, fun _ _ _ => le_rfl⟩
  | tail _ hm ih => exact ih.trans hm.invKept hm.keeps.session.2

theorem SessionSame.invKept {s t : State} (h : SessionSame s t) : InvKept s t where
  inv hi :=
    { legal := h.inst ▸ hi.legal
      clock := h.clockOk hi.clock
      session := fun ht => h.sessionOk (hi.session (h.session ▸ ht)) }
  maxCnt _ _ _ := h.iqdcMaxCnt ▸ le_rfl

/-- In UNINIT nothing is asked but legal parameters and the symbol clock in order. -/
theorem InvKept.of_uninit {s t : State} (hinst : t.inst = s.inst) (hu : t.status.session = .uninit)
    (hclock : s.ClockOk → t.ClockOk) : InvKept s t :=
  ⟨fun hi => ⟨hinst ▸ hi.legal, hclock hi.clock, absurd hu⟩, fun _ _ => absurd hu⟩

/-- After a reset the clock stands at 0. -/
theorem InvKept.of_reset {s t : State} (hinst : t.inst = s.inst) (hstatus : t.status = Status.reset)
    (hrun : t.run = Run.reset) : InvKept s t :=
  .of_uninit hinst (by rw [hstatus]; rfl) fun _ => clockOk_of_zero (by rw [hrun]; rfl)

/-! ### The session that INIT opens -/

/-- INIT writes the sizes, the memories but HDR and COEF, the run-time registers and STATUS (rule R234). -/
theorem openSession_exists (s : State) : ∃ m,
    s.openSession = State.initStatus (State.initRun { s.initSizes with mem := m })
      ∧ m.hdr = s.mem.hdr ∧ m.coef = s.mem.coef := by
  obtain ⟨m, hm⟩ := (initMems_spec s.initSizes).exists
  have hk := (initMems_moves s.initSizes).keeps
  rw [hm] at hk
  exact ⟨m, by rw [openSession_eq, hm], hk.hdr.trans (by rw [initSizes_mem]), hk.coef.trans (by rw [initSizes_mem])⟩

/-- SR is at least 1, IQDC_DIV being so (rule R232, condition 1). -/
theorem one_le_sr {s : State} (hi : s.inst.legal = true) (hc : s.ConfigLegal) :
    1 ≤ s.inst.iqdcDiv ∧ 1 ≤ s.cfg.sr.toNat := by
  simp only [Config.Params.legal, Bool.and_eq_true, decide_eq_true_eq] at hi
  obtain ⟨-, hdiv⟩ := hi
  exact ⟨hdiv, hdiv.trans hc.rate.1⟩

/-- The decimation D is at least 1, and SR·D below 2^31 (rule R232, conditions 13 and 14). -/
theorem decimation_bounds {s : State} (hc : s.ConfigLegal) :
    1 ≤ s.cfg.decimation ∧ s.cfg.decimation < 2 ^ 32 ∧ s.cfg.sr.toNat * s.cfg.decimation < 2 ^ 31 := by
  refine ⟨?_, ?_, hc.inputRate⟩
  · unfold Cfg.decimation
    split
    · rename_i hd
      exact (hc.decimation hd).1
    · exact le_rfl
  · unfold Cfg.decimation
    split
    · exact s.cfg.decm.isLt
    · decide

/-- The decimation line and the rotation table are not empty, and SDEC's range fits a register (rule R232, condition
13). -/
theorem rotation_bounds {s : State} (hi : s.inst.legal = true) (hc : s.ConfigLegal) (hd : s.cfg.decim = true) :
    1 ≤ s.size.taps0.toNat ∧ 1 ≤ s.cfg.rotationLen ∧ s.size.taps0.toNat * s.cfg.rotationLen < 2 ^ 32 := by
  obtain ⟨hdecm, htaps, -, -, hlt⟩ := hc.decimation hd
  rw [← rotationLen_of_decim hd] at hlt
  have hrate : 0 < s.cfg.sr.toNat * s.cfg.decm.toNat := Nat.mul_pos (one_le_sr hi hc).2 hdecm
  refine ⟨htaps, ?_, hlt⟩
  rw [rotationLen_of_decim hd]
  exact Nat.div_pos (Nat.gcd_le_left _ hrate) (Nat.gcd_pos_of_pos_left _ hrate)

/-- The sizes that INIT writes fit their registers. -/
theorem toNat_initSizes {s : State} (hi : s.inst.legal = true) (hc : s.ConfigLegal) (hk : s.CapacityLegal) :
    s.initSizes.size.n.toNat = s.cfg.transformLen ∧ s.initSizes.size.log2n.toNat = s.cfg.transformLog
      ∧ s.initSizes.size.l.toNat = s.cfg.templateLen ∧ s.initSizes.size.decm.toNat = s.cfg.decimation := by
  have hn : s.cfg.transformLen < 2 ^ 32 := (transformLen_le_nMax hc hk).trans_lt (nMax_lt hi)
  have hlog : s.cfg.transformLog < s.cfg.transformLen := Nat.lt_two_pow_self
  have hspan := (span_le_transformLen s.cfg).2
  have hdec := (decimation_bounds hc).2.1
  rw [initSizes_size]
  simp only [BitVec.toNat_ofNat]
  exact ⟨Nat.mod_eq_of_lt hn, Nat.mod_eq_of_lt (by omega), Nat.mod_eq_of_lt (by omega), Nat.mod_eq_of_lt hdec⟩

theorem toNat_initSizes_rotLen {s : State} (hi : s.inst.legal = true) (hc : s.ConfigLegal) (hd : s.cfg.decim = true) :
    s.initSizes.size.rotLen.toNat = s.cfg.rotationLen := by
  obtain ⟨htaps, -, hlt⟩ := rotation_bounds hi hc hd
  rw [initSizes_size]
  simp only [hd, if_true, BitVec.toNat_ofNat]
  exact Nat.mod_eq_of_lt ((Nat.le_mul_of_pos_left _ htaps).trans_lt hlt)

theorem initSizes_sizesOk {s : State} (hi : s.inst.legal = true) (hc : s.ConfigLegal) (hk : s.CapacityLegal) :
    s.initSizes.SizesOk := by
  obtain ⟨hn, hlog, hl, -⟩ := toNat_initSizes hi hc hk
  rw [State.SizesOk, hn, hlog, hl]
  refine ⟨rfl, ?_⟩
  rw [initSizes_size]
  exact (span_le_transformLen s.cfg).2

theorem initSizes_stagesOk {s : State} (hi : s.inst.legal = true) (hc : s.ConfigLegal) (hk : s.CapacityLegal) :
    s.initSizes.StagesOk := by
  obtain ⟨-, -, -, hdec⟩ := toNat_initSizes hi hc hk
  obtain ⟨hone, -, hrate⟩ := decimation_bounds hc
  rw [State.StagesOk, hdec, initSizes_cfg]
  refine ⟨(one_le_sr hi hc).2, hone, hrate, fun h => ?_, fun h => ?_, fun h => ?_⟩
  · rw [initSizes_size]
    exact (hc.iqTaps h).2
  · rw [initSizes_size]
    exact hc.fmTaps h
  · rw [toNat_initSizes_rotLen hi hc h, initSizes_size]
    exact rotation_bounds hi hc h

/-- The run-time registers of a new session keep rule R57 with any sizes that do. -/
theorem sessionOk_of_sizes {s : State} (m : Mems) (hsizes : s.SizesOk) (hstages : s.StagesOk) :
    (State.initStatus (State.initRun { s with mem := m })).SessionOk := by
  have ⟨hsr, hdecm, _⟩ := hstages
  refine ⟨hsizes, ?_, ?_, ?_, hstages⟩
  · change 0xFFFFFFFF#32 - s.cfg.delay = 0#32 - 1#32 - s.cfg.delay
    rfl
  · change (BitVec.ofNat 32 (s.cfg.sr.toNat / s.inst.iqdcDiv)).toNat < 2 * (s.cfg.sr.toNat * s.size.decm.toNat)
    rw [BitVec.toNat_ofNat]
    have hwindow : s.cfg.sr.toNat / s.inst.iqdcDiv % 2 ^ 32 ≤ s.cfg.sr.toNat :=
      (Nat.mod_le _ _).trans (Nat.div_le_self _ _)
    have hlimit := Nat.le_mul_of_pos_right s.cfg.sr.toNat hdecm
    omega
  · have hzero (n : Nat) : (0#32).toNat < max 1 n := by simp
    exact ⟨hzero _, hzero _, hzero _⟩

/-- INIT opens a session in which rule R57 holds. -/
theorem openSession_sessionOk {s : State} (hi : s.inst.legal = true) (hc : s.ConfigLegal) (hk : s.CapacityLegal) :
    s.openSession.SessionOk := by
  obtain ⟨m, hm, -, -⟩ := openSession_exists s
  rw [hm]
  exact sessionOk_of_sizes m (initSizes_sizesOk hi hc hk) (initSizes_stagesOk hi hc hk)

theorem openSession_invKept {s : State} (hu : s.status.session = .uninit) (hc : s.ConfigLegal) (hk : s.CapacityLegal) :
    InvKept s s.openSession := by
  obtain ⟨m, hm, -, -⟩ := openSession_exists s
  have hinst : s.openSession.inst = s.inst := by rw [hm, initStatus_inst, initRun_inst, initSizes_inst]
  have hsc : s.openSession.run.sc = 0#32 := by rw [hm, initStatus_run, initRun_run]; rfl
  exact ⟨fun hi => ⟨by rw [hinst]; exact hi.legal, clockOk_of_zero hsc, fun _ => openSession_sessionOk hi.legal hc hk⟩,
    fun _ hs => absurd hu hs⟩

/-! ### Every command and every step -/

theorem sessionSame_beginCommand (s : State) : SessionSame s s.beginCommand := by constructor <;> rfl

theorem sessionSame_endCommand (s : State) (code : Word) : SessionSame s (s.endCommand code) := by constructor <;> rfl

theorem InvKept.endCommand {s t : State} (h : InvKept s t) (code : Word) : InvKept s (t.endCommand code) :=
  h.trans (sessionSame_endCommand t code).invKept id

theorem InvKept.begun {s t : State} (h : InvKept s.beginCommand t) : InvKept s t :=
  ⟨h.inv ∘ (sessionSame_beginCommand s).invKept.inv, fun hi => h.maxCnt ((sessionSame_beginCommand s).invKept.inv hi)⟩

theorem CommandEnd.invKept {i : Instr} {s t : State} (h : CommandEnd i s t) : InvKept s t := by
  cases h with
  | ran code h => exact (Moves.invKept h).begun.endCommand code
  | abandoned h =>
    obtain ⟨hinst, hstatus, hrun, -⟩ := h.afterReset
    exact (InvKept.of_reset hinst hstatus hrun).begun
  | sreset h =>
    exact (InvKept.of_reset (s := s.beginCommand) (t := s.beginCommand.hardwareReset) rfl rfl
      rfl).begun.endCommand rcOk
  | opened hu hc hk => exact (openSession_invKept (s := s.beginCommand) hu hc hk).begun.endCommand rcOk
  | designed hu b f n v =>
    exact (InvKept.of_uninit (s := s.beginCommand) (t := (s.beginCommand.designBank b f n).setRes0 v) rfl hu
      id).begun.endCommand rcOk

theorem StepEnd.invKept {s t : State} (h : StepEnd s t) : InvKept s t := by
  cases h with
  | command h => exact h.invKept
  | reset => exact .of_reset rfl rfl rfl
  | access h => exact h.sessionSame.invKept
  | configured c hu => exact .of_uninit rfl hu id
  | stored id i w => exact SessionSame.invKept (by constructor <;> rfl)

end Sys2Proof.Machine

namespace Sys2Proof.Scope

open Machine

/-- Settles O58: what a step can do is said by `step_ends`, and each way keeps the canonical form. -/
theorem stepKeepsCanonicalMemories : Obligations.StepKeepsCanonicalMemories := by
  intro s t hw h
  obtain ⟨u, hq, hend⟩ := step_ends h
  exact hend.wf (hq.mem ▸ hw)

/-- Settles O59: every move of a running command keeps rule R57, and INIT opens a session in which it holds. -/
theorem stepKeepsSessionInvariants : Obligations.StepKeepsSessionInvariants := by
  intro s t hi h
  obtain ⟨u, hq, hend⟩ := step_ends h
  have hu := hq.sessionSame.invKept.inv hi
  refine ⟨hend.invKept.inv hu, fun hs ht => ?_⟩
  rw [← hq.iqdcMaxCnt]
  exact hend.invKept.maxCnt hu (hq.session ▸ hs) ht

end Sys2Proof.Scope
end

section
/-! SUPPORT. What a command does to HDR (rules R50, R63), what INIT does to every register (rule R234), and the sizes it
chooses (rule R41). -/

namespace Sys2Proof.Machine

theorem byte_hdr_congr {s t : State} (h : t.mem.hdr = s.mem.hdr) (a : Nat) : t.byte .hdr a = s.byte .hdr a :=
  congrArg (Memory.get · a) h

theorem byte_coef_congr {s t : State} (h : t.mem.coef = s.mem.coef) (a : Nat) : t.byte .coef a = s.byte .coef a :=
  congrArg (Memory.get · a) h

/-- After a reset no memory holds a byte. -/
theorem byte_of_reset {t : State} (h : t.mem = Mems.reset) (id : MemId) (a : Nat) : t.byte id a = none := by
  rw [State.byte, h, Mems.get_reset]
  rfl

end Sys2Proof.Machine

namespace Sys2Proof.Scope

open Machine

/-- Settles O60: the moves of a command leave HDR alone, and a hardware reset among them stood in the HOST's queue. -/
theorem commandsKeepHeader : Obligations.CommandsKeepHeader := by
  intro i s t h
  cases exec_ends h with
  | ran code hm => exact .inl (byte_hdr_congr (Moves.keeps hm).hdr)
  | abandoned ha =>
    obtain ⟨-, hstatus, -, hmem⟩ := ha.afterReset
    obtain ⟨u, es, later, hm, hd, hreset, -⟩ := ha
    have hes : es ∈ s.during := hm.keeps.during.subset (hd ▸ List.mem_cons_self)
    exact .inr ⟨byte_of_reset hmem .hdr, by rw [hstatus]; rfl, .inr ⟨es, hes, hreset⟩⟩
  | sreset hi => exact .inr ⟨byte_of_reset rfl .hdr, rfl, .inl hi⟩
  | opened hu hc hk =>
    obtain ⟨m, hm, hhdr, -⟩ := openSession_exists s.beginCommand
    rw [hm]
    exact .inl (byte_hdr_congr hhdr)
  | designed hu b f n v => exact .inl (byte_hdr_congr rfl)

/-- Settles O53: INIT opens a session (`exec_init_of_legal`), whose registers are those of `openSession`. -/
theorem initCompletes : Obligations.InitCompletes := by
  intro s hf hu hc hk
  obtain ⟨m, hm, hhdr, hcoef⟩ := openSession_exists s.beginCommand
  refine ⟨_, exec_init_of_legal hf hu hc hk, ?_⟩
  rw [hm]
  refine ⟨?base, rfl, ?fcause, ?finfo, ?res, ?srcPos, ?status, ?size, ?run, byte_hdr_congr hhdr,
    byte_coef_congr hcoef⟩
  case base => constructor <;> simp
  case fcause => simp
  case finfo => simp
  case res => simp
  case srcPos => simp
  case status => simp
  case size =>
    simp only [endCommand_size, initStatus_size, initRun_size, initSizes_size, beginCommand_size, beginCommand_cfg,
      Cfg.templateLen, Cfg.decimation]
    by_cases hd : s.cfg.decim = true
    · simp [hd, rotationLen_of_decim hd]
    · simp [hd]
  case run => simp

/-- Settles O56, from the two bounds of `ceilLog2`. -/
theorem sizesAreSmallestPowers : Obligations.SizesAreSmallestPowers := by
  intro c
  obtain ⟨hone, hreq⟩ := (bufferLen_le_iff c (ceilLog2 c.requiredLen)).1 le_rfl
  obtain ⟨htwo, hspan⟩ := span_le_transformLen c
  refine ⟨⟨_, rfl⟩, ?_, hreq, ?_, rfl, htwo, hspan, ?_⟩
  · exact Nat.pow_le_pow_right (n := 2) (by decide) hone
  · intro k hk h
    exact (bufferLen_le_iff c k).2 ⟨(Nat.pow_le_pow_iff_right (a := 2) (n := 1) (by decide)).1 hk, h⟩
  · intro k hk h
    exact Nat.pow_le_pow_right (by decide) (ceilLog2_le _ _ (max_le hk h))

end Sys2Proof.Scope
end

section
/-! SUPPORT. The HOST's accesses one by one: which are forbidden, what a write to a register changes in the window, what a
read returns (rules R23, R25, R62, R67, R74, R255). -/

namespace Sys2Proof.Machine

/-! ### Accesses -/

/-- An access of a wrong form, or one that is not allowed while a command runs (rules R67, R74). -/
theorem accessForbidden_iff (s : State) (width off : Nat) (allowed : Bool) : s.accessForbidden width off allowed = true
    ↔ width ≠ 4 ∨ off % 4 ≠ 0 ∨ (s.status.busy = true ∧ allowed = false) := by
  simp only [State.accessForbidden, Bool.or_eq_true, Bool.and_eq_true, decide_eq_true_eq, Bool.not_eq_true', or_assoc]

/-- A forbidden write is a record and nothing else (rules R255 to R257). -/
theorem hostWrite_forbidden {s : State} {width off : Nat} (v : Word)
    (h : width ≠ 4 ∨ off % 4 ≠ 0 ∨ (s.status.busy = true ∧ off ≠ 0x004)) : s.hostWrite width off v = s.recorded off :=
  if_pos ((accessForbidden_iff ..).2 (h.imp_right (.imp_right fun ⟨hb, ho⟩ => ⟨hb, decide_eq_false ho⟩)))

/-- A forbidden read is a record, and returns any word. -/
theorem hostRead_forbidden {s : State} {width off : Nat}
    (h : width ≠ 4 ∨ off % 4 ≠ 0 ∨ (s.status.busy = true ∧ ¬ (off = 0x004 ∨ off = 0x008))) :
    s.hostRead width off = ((s.recorded off).pushRead (Config.faultingRead s.free)).fresh :=
  if_pos ((accessForbidden_iff ..).2 (h.imp_right (.imp_right fun ⟨hb, ho⟩ => ⟨hb, by
    rw [Bool.or_eq_false_iff]
    exact ⟨decide_eq_false (mt .inr ho), decide_eq_false (mt .inl ho)⟩⟩)))

/-- A write that is not forbidden by its form does what the window says, and is a fault where the window says
nothing. -/
theorem hostWrite_window {s : State} {off : Nat} (v : Word) (hoff : off % 4 = 0)
    (hb : s.status.busy = false ∨ off = ctrlOffset) :
    s.hostWrite 4 off v = (s.windowWrite off v).getD (s.recorded off) := by
  have hform : ¬ s.accessForbidden 4 off (decide (off = ctrlOffset)) = true := by
    rw [accessForbidden_iff]
    rcases hb with hb | rfl <;> simp_all
  rw [State.hostWrite, if_neg hform]
  cases s.windowWrite off v <;> rfl

theorem hostRead_window {s : State} {off : Nat} (hoff : off % 4 = 0)
    (hb : s.status.busy = false ∨ off = ctrlOffset ∨ off = statusOffset) :
    s.hostRead 4 off = (s.pushRead (s.windowRead off)).fresh := by
  have hform : ¬ s.accessForbidden 4 off (decide (off = statusOffset) || decide (off = ctrlOffset)) = true := by
    rw [accessForbidden_iff]
    rcases hb with hb | rfl | rfl <;> simp_all
  exact if_neg hform

/-- CTRL takes bit 0 of the word, also while a command runs (rules R25, R74). -/
theorem hostWrite_ctrl (s : State) (v : Word) : s.hostWrite 4 0x004 v = { s with active := v.getLsbD 0 } :=
  hostWrite_window v rfl (.inr rfl)

/-! ### Steps that are accesses -/

theorem step_of_next {s u : State} {e : HostEvent} (h : s.Next e u) : step s = perform e u := by
  obtain ⟨later, hh, rfl⟩ := h
  rw [step, hh]

theorem State.Next.same {s u : State} {e : HostEvent} (h : s.Next e u) : u.inst = s.inst ∧ u.status = s.status := by
  obtain ⟨later, -, rfl⟩ := h
  exact ⟨rfl, rfl⟩

theorem step_read {s u : State} {width addr : Nat} (h : s.Next (.read width addr) u) (hsel : s.selected addr = true) :
    step s = .next (u.hostRead width (offsetOf addr)) := by
  have hsel' : u.selected addr = true := by rwa [State.selected, h.same.1]
  rw [step_of_next h]
  exact congrArg Host.Outcome.next (if_pos hsel')

/-- A write that starts no command (rules R69, R85). -/
theorem step_write {s u : State} {width addr : Nat} {v : Word} (h : s.Next (.write width addr v) u)
    (hsel : s.selected addr = true) (hcmd : width ≠ 4 ∨ offsetOf addr ≠ 0x00C) :
    step s = .next (u.hostWrite width (offsetOf addr) v) := by
  have hsel' : u.selected addr = true := by rwa [State.selected, h.same.1]
  have hstart : u.startsCommand width (offsetOf addr) = false := by
    unfold State.startsCommand cmdOffset
    rcases hcmd with hw | ho <;> simp [*]
  rw [step_of_next h, perform, hsel', hstart, State.busWrite, if_pos hsel']
  rfl

/-- A write of a word to CMD starts a command (rule R85). -/
theorem step_issue {s u : State} {addr : Nat} {w : Word} (h : s.Next (.write 4 addr w) u) (hsel : s.selected addr = true)
    (hoff : offsetOf addr = 0x00C) (hb : s.status.busy = false) : step s = issue w u := by
  have hsel' : u.selected addr = true := by rwa [State.selected, h.same.1]
  have hstart : u.startsCommand 4 (offsetOf addr) = true := by
    simp [State.startsCommand, cmdOffset, hoff, h.same.2, hb]
  rw [step_of_next h, perform, hsel', hstart]
  rfl

/-! ### What a write to a register changes in the window -/

/-- CTRL shows bit 0 of the word written, and zeros (rule R25). -/
theorem ctrlWord_activeOf (v : Word) : ctrlWord (activeOf v) = v &&& 1#32 := by
  apply BitVec.eq_of_toNat_eq
  rw [ctrlWord, activeOf, BitVec.toNat_ofNat, BitVec.toNat_and, show (1#32).toNat = 1 from rfl, Nat.and_one_is_mod,
    BitVec.getLsbD, Nat.testBit_zero]
  rcases Nat.mod_two_eq_zero_or_one v.toNat with h | h <;> simp [h]

/-- The window shows `v` at one offset, and everything else as before. -/
def ShowsAt (s t : State) (off : Nat) (v : Word) : Prop := ∀ o, t.readReg o = if o = off then v else s.readReg o

/-- The CFG register at an offset (rule R23). -/
def Cfg.read (c : Cfg) (off : Nat) : Option Word :=
  match off with
  | 0x040 => some c.sr
  | 0x044 => some c.fmt
  | 0x048 => some c.mode
  | 0x04C => some c.sps
  | 0x050 => some c.hdrLen
  | 0x054 => some c.symLen
  | 0x058 => some c.bt
  | 0x05C => some c.k
  | 0x060 => some c.delay
  | 0x064 => some c.decm
  | 0x068 => some c.rotf
  | 0x06C => some c.rotw
  | 0x070 => some c.gdelay
  | 0x074 => some c.loopg
  | _ => none

/-- The window shows CFG through `Cfg.read`, and the rest does not depend on CFG. -/
theorem readReg_eq_cfgRead (s : State) (c : Cfg) (off : Nat) :
    s.readReg off = (s.cfg.read off).getD ({ s with cfg := c }.readReg off) := by
  unfold Cfg.read
  split
  case h_15 =>
    change s.readReg off = { s with cfg := c }.readReg off
    unfold State.readReg
    split <;> first | rfl | contradiction
  all_goals rfl

theorem read_of_write {c c' : Cfg} {off : Nat} {v : Word} (h : c.write off v = some c') (o : Nat) :
    c'.read o = if o = off then some v else c.read o := by
  unfold Cfg.write at h
  split at h <;> cases h
  all_goals
    split
    · subst o
      rfl
    · rename_i hne
      unfold Cfg.read
      split <;> first | rfl | exact absurd rfl hne

theorem cfgWrite_shows {s : State} {c : Cfg} {off : Nat} {v : Word} (h : s.cfg.write off v = some c) :
    ShowsAt s { s with cfg := c } off v := by
  intro o
  rw [readReg_eq_cfgRead s Cfg.reset, readReg_eq_cfgRead { s with cfg := c } Cfg.reset, read_of_write h]
  split <;> rfl

/-- A write to an ARG register changes ARG, and in the window that register. -/
theorem writeArg_shows {s t : State} {off : Nat} {v : Word} (h : s.writeArg off v = some t) :
    ShowsAt s t off v ∧ ∃ q, t = { s with arg := q } := by
  unfold State.writeArg at h
  split at h <;> cases h
  all_goals
    refine ⟨fun o => ?_, _, rfl⟩
    split
    · subst o
      rfl
    · rename_i hne
      unfold State.readReg
      split <;> first | rfl | exact absurd rfl hne

end Sys2Proof.Machine
end

section
/-! SUPPORT. Which writes the window takes, word by word of the memory map, and what a word reads as after a write (rules
R23, R62, R255). -/

namespace Sys2Proof.Machine

/-! ### Which registers the HOST may write -/

theorem writeArg_isSome_iff (s : State) {off : Nat} (v : Word) (hoff : off % 4 = 0) :
    (s.writeArg off v).isSome = true ↔ 0x020 ≤ off ∧ off ≤ 0x02C := by
  constructor
  · unfold State.writeArg
    split <;> simp
  · rintro ⟨hlo, hhi⟩
    obtain ⟨i, rfl⟩ : ∃ i, off = 4 * i := ⟨off / 4, by omega⟩
    obtain ⟨hi, hi'⟩ : 8 ≤ i ∧ i ≤ 11 := by omega
    interval_cases i <;> rfl

theorem cfgWrite_isSome_iff (c : Cfg) {off : Nat} (v : Word) (hoff : off % 4 = 0) :
    (c.write off v).isSome = true ↔ 0x040 ≤ off ∧ off ≤ 0x074 := by
  constructor
  · unfold Cfg.write
    split <;> simp
  · rintro ⟨hlo, hhi⟩
    obtain ⟨i, rfl⟩ : ∃ i, off = 4 * i := ⟨off / 4, by omega⟩
    obtain ⟨hi, hi'⟩ : 16 ≤ i ∧ i ≤ 29 := by omega
    interval_cases i <;> rfl

theorem writeReg_isSome_iff (s : State) {off : Nat} (v : Word) (hoff : off % 4 = 0) :
    (s.writeReg off v).isSome = true ↔ off = 0x004 ∨ (0x020 ≤ off ∧ off ≤ 0x02C)
      ∨ (0x040 ≤ off ∧ off ≤ 0x074 ∧ s.status.session = .uninit) := by
  have harg := writeArg_isSome_iff s v hoff
  have hcfg := cfgWrite_isSome_iff s.cfg v hoff
  unfold State.writeReg ctrlOffset
  split
  · simp_all
  · cases ha : s.writeArg off v with
    | some t => rw [ha] at harg; simp_all
    | none =>
      rw [ha] at harg
      by_cases hu : s.status.session = .uninit
      · rw [if_pos hu, Option.isSome_map, hcfg]
        simp_all
      · rw [if_neg hu]
        simp_all

/-- A write to ARG or CFG shows in the window at its own offset only. -/
theorem writeReg_shows {s t : State} {off : Nat} {v : Word} (h : s.writeReg off v = some t) (hoff : off ≠ ctrlOffset) :
    ShowsAt s t off v ∧ t.mem = s.mem ∧ t.srcPos = s.srcPos := by
  rw [State.writeReg, if_neg hoff] at h
  split at h
  · rename_i u hu
    cases h
    obtain ⟨hshows, q, rfl⟩ := writeArg_shows hu
    exact ⟨hshows, rfl, rfl⟩
  · split at h
    · cases hc : s.cfg.write off v with
      | none => rw [hc] at h; cases h
      | some c =>
        rw [hc] at h
        cases h
        exact ⟨cfgWrite_shows hc, rfl, rfl⟩
    · cases h

/-- An idle block takes an allowed write to a register other than CTRL. -/
theorem hostWrite_reg {s : State} {off : Nat} (v : Word) (hoff : off % 4 = 0) (hb : s.status.busy = false)
    (hreg : (0x020 ≤ off ∧ off ≤ 0x02C) ∨ (0x040 ≤ off ∧ off ≤ 0x074 ∧ s.status.session = .uninit)) :
    ShowsAt s (s.hostWrite 4 off v) off v ∧ (s.hostWrite 4 off v).mem = s.mem
      ∧ (s.hostWrite 4 off v).srcPos = s.srcPos := by
  obtain ⟨t, ht⟩ := Option.isSome_iff_exists.1 ((writeReg_isSome_iff s v hoff).2 (.inr hreg))
  rw [hostWrite_window v hoff (.inl hb), State.windowWrite, if_pos (by omega), ht]
  exact writeReg_shows ht (by unfold ctrlOffset; omega)

/-! ### Which memory words the HOST may write -/

theorem mapWord_hdr (s : State) {off : Nat} (h : off / 2 ^ 24 = 1) :
    s.mapWord off = plainWord .hdr (off % 2 ^ 24 / 4) s.inst.hdrMax s.inst.hdrMax := by
  simp only [State.mapWord, h]

theorem mapWord_xn (s : State) {off : Nat} (h : off / 2 ^ 24 = 2) :
    s.mapWord off = plainWord .xn (off % 2 ^ 24 / 4) s.inst.nMax s.size.n.toNat := by
  simp only [State.mapWord, h]

/-- The memory of regions 3 to 5. -/
def spectrumOf (region : Nat) : MemId :=
  match region with
  | 3 => .x
  | 4 => .z
  | _ => .cx

theorem mapWord_spectrum (s : State) {off : Nat} (h : 3 ≤ off / 2 ^ 24 ∧ off / 2 ^ 24 ≤ 5) :
    s.mapWord off = plainWord (spectrumOf (off / 2 ^ 24)) (off % 2 ^ 24 / 4) (2 * s.inst.nMax) (2 * s.size.n.toNat) := by
  obtain h | h | h : off / 2 ^ 24 = 3 ∨ off / 2 ^ 24 = 4 ∨ off / 2 ^ 24 = 5 := by omega
  all_goals simp only [State.mapWord, h, spectrumOf]

/-- Outside regions 1 to 5 the HOST writes no memory (rule R62). -/
theorem hostWritable_of_mapWord {s : State} {off : Nat} {w : MapWord} (h : s.mapWord off = some w)
    (hr : ¬ (1 ≤ off / 2 ^ 24 ∧ off / 2 ^ 24 ≤ 5)) (session : Session) : hostWritable w.id session = false := by
  unfold State.mapWord at h
  generalize off / 2 ^ 24 = r at h hr
  dsimp only at h
  split at h
  case h_1 | h_2 | h_3 | h_4 | h_5 => omega
  case h_13 => split at h <;> cases h <;> rfl
  case h_14 => split at h <;> cases h <;> rfl
  all_goals cases h
  all_goals rfl

theorem writeMapWord_isSome_iff (s : State) (w : MapWord) (v : Word) :
    (s.writeMapWord w v).isSome = true ↔ w.inCapacity = true ∧ hostWritable w.id s.status.session = true := by
  rw [State.writeMapWord, ← Bool.and_eq_true]
  split <;> simp_all

/-- A write to a region is allowed in HDR in UNINIT, in XN, X, Z and CX in READY, within the capacity (rule R62). -/
theorem mapWrite_isSome_iff (s : State) (off : Nat) (v : Word) :
    ((s.mapWord off).bind (fun w => s.writeMapWord w v)).isSome = true
      ↔ (off / 2 ^ 24 = 1 ∧ s.status.session = .uninit ∧ off % 2 ^ 24 / 4 < s.inst.hdrMax)
        ∨ (off / 2 ^ 24 = 2 ∧ s.status.session = .ready ∧ off % 2 ^ 24 / 4 < s.inst.nMax)
        ∨ (3 ≤ off / 2 ^ 24 ∧ off / 2 ^ 24 ≤ 5 ∧ s.status.session = .ready ∧ off % 2 ^ 24 / 4 < 2 * s.inst.nMax) := by
  by_cases h1 : off / 2 ^ 24 = 1
  · rw [mapWord_hdr s h1, h1]
    simp [plainWord, writeMapWord_isSome_iff, hostWritable, and_comm]
  by_cases h2 : off / 2 ^ 24 = 2
  · rw [mapWord_xn s h2, h2]
    simp [plainWord, writeMapWord_isSome_iff, hostWritable, and_comm]
  by_cases h3 : 3 ≤ off / 2 ^ 24 ∧ off / 2 ^ 24 ≤ 5
  · have hw : hostWritable (spectrumOf (off / 2 ^ 24)) s.status.session = decide (s.status.session = .ready) := by
      unfold spectrumOf
      split <;> rfl
    rw [mapWord_spectrum s h3]
    simp only [plainWord, Option.bind_some, writeMapWord_isSome_iff, hw, decide_eq_true_eq]
    tauto
  · have hnone : ¬ ((s.mapWord off).bind (fun w => s.writeMapWord w v)).isSome = true := by
      cases hm : s.mapWord off with
      | none => simp
      | some w =>
        rw [Option.bind_some, writeMapWord_isSome_iff, hostWritable_of_mapWord hm (by omega)]
        simp
    exact iff_of_false hnone (by omega)

/-- The window takes exactly the writes that rules R23, R62 and R255 allow. -/
theorem windowWrite_isSome_iff (s : State) {off : Nat} (v : Word) (hoff : off % 4 = 0) :
    (s.windowWrite off v).isSome = true ↔ s.WriteAllowed off := by
  unfold State.windowWrite State.WriteAllowed
  split
  · rename_i hlow
    rw [writeReg_isSome_iff s v hoff, Nat.div_eq_of_lt hlow]
    simp
  · have h4 : off ≠ 0x004 := by omega
    have harg : ¬ off ≤ 0x02C := by omega
    have hcfg : ¬ off ≤ 0x074 := by omega
    rw [mapWrite_isSome_iff]
    simp only [h4, harg, hcfg, and_false, false_and, false_or]

/-- A write that the window takes leaves the fault record alone. -/
theorem windowWrite_record {s t : State} {off : Nat} {v : Word} (h : s.windowWrite off v = some t) :
    t.status = s.status ∧ t.fcause = s.fcause ∧ t.finfo = s.finfo := by
  rcases windowWrite_cases s t off v h with ⟨a, rfl⟩ | ⟨q, rfl⟩ | ⟨c, rfl, -⟩ | ⟨id, i, w, rfl, -⟩
  all_goals exact ⟨rfl, rfl, rfl⟩

/-! ### A word of a memory -/

/-- What the HOST's write to a memory word stores: of HDR one bit (rule R62). -/
def storedWord (id : MemId) (v : Word) : Word := if id = .hdr then v &&& 1#32 else v

/-- An idle block stores an allowed write to a memory (rule R62). -/
theorem hostWrite_map {s : State} {off : Nat} {w : MapWord} (v : Word) (hb : s.status.busy = false) (hoff : off % 4 = 0)
    (hlow : 2 ^ 24 ≤ off) (hw : s.mapWord off = some w) (hcap : w.inCapacity = true)
    (hok : hostWritable w.id s.status.session = true) :
    s.hostWrite 4 off v = s.writeWords w.id w.idx [storedWord w.id v] := by
  rw [hostWrite_window v hoff (.inl hb), State.windowWrite, if_neg (by omega), hw, Option.bind_some,
    State.writeMapWord, hcap, hok]
  rfl

/-- The window shows a memory word that has just been written, within what the session uses. -/
theorem windowRead_written {s : State} {off : Nat} {w : MapWord} (x : Word) (hlow : 2 ^ 24 ≤ off)
    (hw : s.mapWord off = some w) (hcap : w.inCapacity = true) (hsess : w.inSession = true) :
    (s.writeWords w.id w.idx [x]).windowRead off = storedWord w.id x := by
  have hmap : (s.writeWords w.id w.idx [x]).mapWord off = some w := hw
  rw [State.windowRead, if_neg (by omega), hmap]
  simp [State.readMapWord, hcap, hsess, State.readWord_writeWords, storedWord]

/-- XN, X, Z and CX are the HOST's to write in READY (rule R62). -/
theorem mapWord_frame {s : State} {off : Nat} {w : MapWord} (hlo : 2 * 2 ^ 24 ≤ off) (hhi : off < 6 * 2 ^ 24)
    (hw : s.mapWord off = some w) : w.id ≠ .hdr ∧ hostWritable w.id .ready = true := by
  by_cases h2 : off / 2 ^ 24 = 2
  · rw [mapWord_xn s h2] at hw
    cases hw
    exact ⟨by simp, rfl⟩
  · rw [mapWord_spectrum s (by omega)] at hw
    cases hw
    dsimp only
    unfold spectrumOf
    split <;> decide

/-- Word `i` of HDR stands in region 1 (rule R62). -/
theorem mapWord_header {s : State} {i : Nat} (hl : s.inst.legal = true) (hi : i < s.inst.hdrMax) :
    s.mapWord (regionWord 0x1 i) = some ⟨.hdr, i, true, true⟩ := by
  simp only [Config.Params.legal, Bool.and_eq_true, decide_eq_true_eq] at hl
  have hidx : regionWord 0x1 i / 2 ^ 24 = 1 ∧ regionWord 0x1 i % 2 ^ 24 / 4 = i := by
    unfold regionWord
    omega
  rw [mapWord_hdr s hidx.1, hidx.2, plainWord, decide_eq_true hi]

end Sys2Proof.Machine
end

section
/-! SUPPORT. What region 0 of the window shows: the registers of rule R23, STATUS, the reset column; and what a reset
leaves (rules R26, R58, R235, R280). -/

namespace Sys2Proof.Machine

/-! ### Region 0 -/

/-- BG is shown in two words (rule R46). -/
theorem bg_words (b : BitVec 48) : b.extractLsb' 0 32 = b.setWidth 32
    ∧ (b.extractLsb' 32 16).setWidth 32 = (b >>> 32).setWidth 32 := by
  constructor
  · ext i hi
    simp
  · ext i hi
    simp only [BitVec.getElem_setWidth, BitVec.getLsbD_extractLsb', BitVec.getLsbD_ushiftRight]
    by_cases h : i < 16
    · simp [h]
    · simp [h, BitVec.getLsbD_of_ge b (32 + i) (by omega)]

/-- The offsets of the readable registers of rule R23 but CTRL and STATUS, which are the same in every state. -/
def registerOffsets : List Nat := (registerMap State.reset).map Prod.fst

/-- The window shows each register at its offset (rule R23). -/
theorem registerMap_eq (s : State) : registerMap s = registerOffsets.map (fun off => (off, s.readReg off)) := by
  obtain ⟨hlow, hhigh⟩ := bg_words s.run.bg
  rw [registerMap, ← hlow, ← hhigh]
  rfl

theorem mem_registerMap_iff {s : State} {off : Nat} {v : Word} :
    (off, v) ∈ registerMap s ↔ off ∈ registerOffsets ∧ s.readReg off = v := by
  rw [registerMap_eq, List.mem_map]
  constructor
  · rintro ⟨o, ho, h⟩
    cases h
    exact ⟨ho, rfl⟩
  · rintro ⟨ho, rfl⟩
    exact ⟨off, ho, rfl⟩

theorem registerOffsets_lt : ∀ off ∈ registerOffsets, off < 2 ^ 24 := by decide

/-- CMD and every offset without a register read 0 (rule R23). -/
theorem readReg_eq_zero (s : State) {off : Nat} (hctrl : off ≠ 0x004) (hstatus : off ≠ 0x008)
    (h : off ∉ registerOffsets) : s.readReg off = 0#32 := by
  unfold State.readReg
  split
  case h_2 => exact absurd rfl hctrl
  case h_3 => exact absurd rfl hstatus
  case h_4 | h_63 => rfl
  all_goals exact absurd (by decide) h

theorem testBit_of_toNat {n i : Nat} {b : Bool} (h : n / 2 ^ i % 2 = b.toNat) : n.testBit i = b := by
  rw [Nat.testBit_eq_decide_div_mod_eq, h]
  cases b <;> rfl

theorem Session.code_lt (s : Session) : s.code < 4 := by cases s <;> decide

theorem DetState.code_lt (d : DetState) : d.code < 4 := by cases d <;> decide

/-- The fields of STATUS stand at the bits of rule R26. -/
theorem statusShows (t : Status) : StatusShows t.word t := by
  have hbusy := t.busy.toNat_le
  have heos := t.eos.toNat_le
  have hlost := t.lost.toNat_le
  have hfault := t.fault.toNat_le
  have hlocked := t.locked.toNat_le
  have hsession := t.session.code_lt
  have hdet := t.det.code_lt
  have hsum : t.word.toNat = t.busy.toNat + t.session.code * 2 + t.eos.toNat * 2 ^ 3 + t.lost.toNat * 2 ^ 4
      + t.fault.toNat * 2 ^ 5 + t.locked.toNat * 2 ^ 6 + t.det.code * 2 ^ 8 := by
    rw [Status.word, BitVec.toNat_ofNat, Nat.mod_eq_of_lt (by omega)]
  refine ⟨testBit_of_toNat (by omega), ?session, testBit_of_toNat (by omega), testBit_of_toNat (by omega),
    testBit_of_toNat (by omega), testBit_of_toNat (by omega), testBit_of_toNat (b := false) (by simp; omega), ?det,
    by omega⟩
  case session =>
    have hcode : t.word.toNat / 2 % 4 = t.session.code := by omega
    rw [hcode]
    cases t.session <;> rfl
  case det =>
    have hcode : t.word.toNat / 2 ^ 8 % 4 = t.det.code := by omega
    rw [hcode]
    cases t.det <;> rfl

/-! ### Reset -/

/-- Two states with the same registers show the same in region 0. -/
theorem readReg_congr {s t : State} (hactive : t.active = s.active) (hstatus : t.status = s.status)
    (hresult : t.result = s.result) (hfcause : t.fcause = s.fcause) (hfinfo : t.finfo = s.finfo) (harg : t.arg = s.arg)
    (hres : t.res = s.res) (hcfg : t.cfg = s.cfg) (hsize : t.size = s.size) (hrun : t.run = s.run) (off : Nat) :
    t.readReg off = s.readReg off := by
  unfold State.readReg
  rw [hactive, hstatus, hresult, hfcause, hfinfo, harg, hres, hcfg, hsize, hrun]

/-- The reset column of rule R23. -/
theorem readReg_reset (off : Nat) : State.reset.readReg off =
    if off = 0x000 then 0x52530007#32 else if off = 0x004 then 1#32 else if off = 0x0C4 then 0xFFFFFFFF#32
    else 0#32 := by
  by_cases hmem : off ∈ registerOffsets
  · revert off
    decide
  · have hid : off ≠ 0x000 := by rintro rfl; exact hmem (by decide)
    have hout : off ≠ 0x0C4 := by rintro rfl; exact hmem (by decide)
    rw [if_neg hid, if_neg hout]
    split
    · subst off
      rfl
    · by_cases hstatus : off = 0x008
      · subst off
        rfl
      · exact readReg_eq_zero _ ‹_› hstatus hmem

theorem ResetFrom.readsAsReset {s t : State} (h : ResetFrom 0#32 s t) : ReadsAsReset t :=
  ⟨fun off => (readReg_congr h.active h.status h.result h.fcause h.finfo h.arg h.res h.cfg h.size h.run off).trans
    (readReg_reset off), h.bytes⟩

theorem hardwareReset_resetFrom (s : State) : ResetFrom 0#32 s s.hardwareReset := by
  have hbytes := byte_of_reset (t := s.hardwareReset) rfl
  constructor
  case bytes => exact hbytes
  all_goals rfl

/-- SRESET passes the fault gate, and no session state forbids it (rules R91, R230, R235). -/
theorem exec_sreset (s : State) : exec .sreset s = .next (s.beginCommand.hardwareReset.endCommand rcOk) := by
  have hgate : ¬ (s.beginCommand.status.fault = true ∧ encode .sreset ≠ sresetWord) := fun h => h.2 (by decide)
  change runCommand .sreset sresetBody s = _
  rw [runCommand, if_neg hgate]
  rfl

theorem sreset_resetFrom (s : State) : ResetFrom 0#32 s (s.beginCommand.hardwareReset.endCommand rcOk) := by
  have hbytes := byte_of_reset (t := s.beginCommand.hardwareReset.endCommand rcOk) rfl
  constructor
  case bytes => exact hbytes
  all_goals rfl

/-! ### Decoding -/

/-- What decodes has legal selectors (rules R88, R92). -/
theorem wellFormed_of_decode {w : Word} {i : Instr} (h : decode w = .ok i) : i.wellFormed = true := by
  unfold decode at h
  split at h
  · cases h
  · split at h
    · cases h
    · split at h
      · cases h
      · rename_i hwf
        cases h
        simpa using hwf

end Sys2Proof.Machine
end

section
/-! SUPPORT. The statements about the HOST's accesses, reset, the decoded command and the estimator. -/

namespace Sys2Proof.Scope

open Machine

/-- Settles O16: a write to ARG or CFG shows at its own offset only (`hostWrite_reg`). -/
theorem hostWriteReadsBack : Obligations.HostWriteReadsBack := by
  refine ⟨?register, ?control⟩
  case register =>
    intro s u addr v hn hsel hb hoff hreg
    rw [← hn.same.2] at hb hreg
    obtain ⟨hshows, hmem, hpos⟩ := hostWrite_reg v hoff hb hreg
    refine ⟨_, step_write hn hsel (.inr (by omega)), ?_, fun o ho => ?_, hmem, hpos⟩
    · rw [hshows, if_pos rfl]
    · rw [hshows, if_neg ho]
  case control =>
    intro s u addr v hn hsel hb hoff
    refine ⟨?_, ctrlWord_activeOf v⟩
    rw [step_write hn hsel (.inr (by omega)), hoff, hostWrite_ctrl]

/-- Settles O17: the window takes exactly the allowed writes (`windowWrite_isSome_iff`). -/
theorem hostWriteAllowedExactly : Obligations.HostWriteAllowedExactly := by
  refine ⟨?idle, ?write, ?read⟩
  case idle =>
    intro s off v hb hoff _ _
    have hiff := windowWrite_isSome_iff s v hoff
    rw [hostWrite_window v hoff (.inl hb)]
    cases ht : s.windowWrite off v with
    | none =>
      rw [ht] at hiff
      exact ⟨fun h => absurd (hiff.2 h) (by simp), fun _ => rfl⟩
    | some t =>
      rw [ht] at hiff
      exact ⟨fun _ => windowWrite_record ht, fun h => absurd (hiff.1 rfl) h⟩
  case write =>
    intro s u width addr v hn hsel hform
    have hcmd : width ≠ 4 ∨ offsetOf addr ≠ 0x00C := by omega
    rw [step_write hn hsel hcmd, hostWrite_forbidden v (hform.imp_right .inl)]
  case read =>
    intro s u width addr hn hsel hform
    refine ⟨_, Config.faultingRead u.free, step_read hn hsel, ?_⟩
    rw [hostRead_forbidden (hform.imp_right .inl)]
    rfl

/-- Settles O18: with BUSY set the window is reached at CTRL, and for a read at STATUS, only. -/
theorem busyAccessesFault : Obligations.BusyAccessesFault := by
  intro s width off v hb
  refine ⟨fun h => ?_, ?_, ?_, fun h => ?_⟩
  · exact hostWrite_forbidden v ((not_and_or.1 h).imp_right fun ho => .inr ⟨hb, ho⟩)
  · rintro rfl rfl
    exact hostWrite_ctrl s v
  · rintro rfl hoff
    have hread : s.hostRead 4 off = (s.pushRead (s.readReg off)).fresh := by
      rcases hoff with rfl | rfl
      · exact hostRead_window rfl (.inr (.inl rfl))
      · exact hostRead_window rfl (.inr (.inr rfl))
    rw [hread]
    rfl
  · refine ⟨Config.faultingRead s.free, ?_⟩
    rw [hostRead_forbidden ((not_and_or.1 h).imp_right fun ho => .inr ⟨hb, ho⟩)]
    rfl

/-- Settles O20: what an allowed write to a memory stores (`hostWrite_map`) is what the window then shows
(`windowRead_written`). -/
theorem hostMemoryReadsBack : Obligations.HostMemoryReadsBack := by
  refine ⟨?frames, ?header⟩
  case frames =>
    intro s off v hb hs hoff hlo hhi w hw hcap hsess
    obtain ⟨hid, hok⟩ := mapWord_frame hlo hhi hw
    rw [← hs] at hok
    rw [hostWrite_map v hb hoff (by omega) hw hcap hok, windowRead_written _ (by omega) hw hcap hsess]
    exact ⟨by simp [storedWord, hid], fun id a h => State.byte_writeWords s _ _ _ _ _ h⟩
  case header =>
    intro s i v hb hs hl hi
    have hw := mapWord_header hl hi
    have hlow : 2 ^ 24 ≤ regionWord 0x1 i := by unfold regionWord; omega
    rw [hostWrite_map v hb (by unfold regionWord; omega) hlow hw rfl (by rw [hs]; rfl),
      windowRead_written _ hlow hw rfl rfl]
    exact ⟨by simp [storedWord, BitVec.and_assoc], fun id a h => State.byte_writeWords s _ _ _ _ _ h, rfl⟩

/-- Settles O5: the write starts the command (`step_issue`) that the word decodes to. -/
theorem stepRunsDecodedCommand : Obligations.StepRunsDecodedCommand := by
  intro s u addr w i hn hsel hoff hb hd
  refine ⟨wellFormed_of_decode hd, ?_⟩
  rw [step_issue hn hsel hoff hb, issue, hd]

/-- Settles O10: each of the three states is one that `ResetFrom` describes. -/
theorem resetRegisters : Obligations.ResetRegisters := by
  refine ⟨⟨readReg_reset, byte_of_reset rfl⟩, fun s u hn => ?_, fun s => ?_⟩
  · exact ⟨_, step_of_next hn, (hardwareReset_resetFrom u).readsAsReset⟩
  · exact ⟨_, exec_sreset s, (sreset_resetFrom s).readsAsReset⟩

/-- Settles O11: no memory holds a byte, the clock stands at 0 and no session is open. -/
theorem resetInvariants : Obligations.ResetInvariants :=
  ⟨mems_reset_wf, by decide, clockOk_of_zero rfl, fun hs => absurd rfl hs⟩

/-- Settles O12: the step is `State.hardwareReset`. -/
theorem hardwareResetTakesAll : Obligations.HardwareResetTakesAll :=
  fun _ u hn => ⟨_, step_of_next hn, hardwareReset_resetFrom u⟩

/-- Settles O13: no session state and no fault stops SRESET (`exec_sreset`). -/
theorem sresetCompletes : Obligations.SresetCompletes :=
  fun s => ⟨_, exec_sreset s, sreset_resetFrom s⟩

/-- Settles O24, by the two branches of `State.iqdcUpdate`. -/
theorem iqdcEstimator : Obligations.IqdcEstimator := by
  intro s x y
  refine ⟨fun hne => if_neg hne, fun heq => ?_⟩
  rw [BitVec.two_mul]
  exact if_pos heq

/-- Settles O15: the read itself is `hostRead_window`; region 0 is `registerMap_eq`, `statusShows` and
`readReg_eq_zero`. -/
theorem hostReadReturns : Obligations.HostReadReturns := by
  refine ⟨?read, ?registers, fun s => ?control, fun s => statusShows s.status, ?zero⟩
  case read =>
    intro s u addr hn hsel hoff hb
    rw [← hn.same.2] at hb
    refine ⟨_, step_read hn hsel, ?_⟩
    rw [hostRead_window hoff (.inl hb)]
    exact ⟨rfl, ⟨rfl, rfl, rfl, fun _ _ => rfl⟩, rfl, rfl, rfl, rfl, rfl, rfl, rfl, rfl, rfl, rfl, rfl, rfl, rfl⟩
  case registers =>
    intro s off v h
    obtain ⟨hoff, hv⟩ := mem_registerMap_iff.1 h
    rw [State.windowRead, if_pos (registerOffsets_lt off hoff), hv]
  case control =>
    change ctrlWord s.active = _
    cases s.active <;> rfl
  case zero =>
    intro s off hlow hctrl hstatus h
    rw [State.windowRead, if_pos hlow]
    exact readReg_eq_zero s hctrl hstatus fun hoff => h _ (mem_registerMap_iff.2 ⟨hoff, rfl⟩)

end Sys2Proof.Scope
end

section
/-! SUPPORT. The memory map of rule R62, memory by memory: where each stands in the window, how long it is, and what of
it the session uses. -/

namespace Sys2Proof.Machine

/-! ### The map as a table -/

/-- The region of a memory (rule R62). -/
def MemId.region : MemId → Nat
  | .hdr => 0x1
  | .xn => 0x2
  | .x => 0x3
  | .z => 0x4
  | .cx => 0x5
  | .fm => 0x6
  | .tw => 0x7
  | .wrom => 0x8
  | .coef => 0x9
  | .bufs => 0xA
  | .dcbuf => 0xB
  | .iqbuf => 0xC
  | .lpiq | .lpfm | .decbuf => 0xD
  | .matchT | .rot => 0xE

/-- The bytes of address space of a memory: the region, a quarter of 0xD, or a half of 0xE. -/
def MemId.span : MemId → Nat
  | .lpiq | .lpfm | .decbuf => 2 ^ 22
  | .matchT | .rot => 2 ^ 23
  | _ => 2 ^ 24

/-- Which part of its region a memory takes. -/
def MemId.part : MemId → Nat
  | .lpfm | .rot => 1
  | .decbuf => 2
  | _ => 0

/-- The window offset of a memory's word 0. -/
def MemId.start (id : MemId) : Nat := id.region * 2 ^ 24 + id.part * id.span

/-- The capacity of a memory in words (rules R50 to R55). -/
def MemId.capacity (p : Config.Params) : MemId → Nat
  | .hdr => p.hdrMax
  | .xn | .tw | .bufs | .dcbuf | .matchT => p.nMax
  | .x | .z | .cx | .fm | .iqbuf => 2 * p.nMax
  | .wrom => 4 * p.nMax
  | .coef => 8 * p.tapsMax
  | .lpiq | .decbuf => 2 * p.tapsMax
  | .lpfm => p.tapsMax
  | .rot => 2 * p.rotMax

/-- The session uses word `i` of a memory (rule R62). -/
def State.uses (s : State) (id : MemId) (i : Nat) : Bool :=
  match id with
  | .hdr => decide (i < s.inst.hdrMax)
  | .xn | .tw => decide (i < s.size.n.toNat)
  | .x | .z | .cx | .fm => decide (i < 2 * s.size.n.toNat)
  | .wrom => decide (i % s.inst.nMax < s.size.n.toNat)
  | .coef => decide (i % (2 * s.inst.tapsMax) < 2 * s.size.taps (bankAt (i / (2 * s.inst.tapsMax))))
  | .bufs | .dcbuf => decide (i < s.size.m.toNat)
  | .iqbuf => decide (i < 2 * s.size.m.toNat)
  | .lpiq => decide (i < 2 * s.size.taps1.toNat)
  | .lpfm => decide (i < s.size.taps3.toNat)
  | .decbuf => decide (i < 2 * s.size.taps0.toNat)
  | .matchT => decide (i < s.size.l.toNat)
  | .rot => decide (i < 2 * s.size.rotLen.toNat)

/-- The region, the part and the word index of an offset in a memory's part of the window. -/
theorem start_add (id : MemId) {i : Nat} (hi : 4 * i < id.span) :
    (id.start + 4 * i) / 2 ^ 24 = id.region ∧ (id.start + 4 * i) % 2 ^ 24 / id.span = id.part
      ∧ (id.start + 4 * i) % 2 ^ 24 % id.span / 4 = i := by
  cases id <;> simp only [MemId.start, MemId.region, MemId.part, MemId.span] at hi ⊢ <;> omega

/-- Word `i` of a memory stands at its offset in the memory's part of the window. -/
theorem mapWord_start (s : State) (id : MemId) {i : Nat} (hi : 4 * i < id.span) :
    s.mapWord (id.start + 4 * i) = some ⟨id, i, decide (i < id.capacity s.inst), s.uses id i⟩ := by
  obtain ⟨hregion, hpart, hidx⟩ := start_add id hi
  unfold State.mapWord
  generalize id.start + 4 * i = off at hregion hpart hidx ⊢
  cases id
  case lpiq | lpfm | decbuf | matchT | rot =>
    simp only [MemId.region, MemId.part, MemId.span] at hregion hpart hidx
    simp only [hregion, hpart, hidx]
    rfl
  all_goals
    simp only [MemId.region, MemId.span, Nat.mod_mod] at hregion hidx
    simp only [hregion, hidx]
    rfl

/-- Where a word of the map stands. -/
theorem start_of_mapWord {s : State} {off : Nat} {w : MapWord} (hoff : off % 4 = 0) (h : s.mapWord off = some w) :
    off = w.id.start + 4 * w.idx := by
  unfold State.mapWord at h
  dsimp only at h
  obtain ⟨r, hr⟩ : ∃ r, off / 2 ^ 24 = r := ⟨_, rfl⟩
  rw [hr] at h
  split at h
  case h_13 =>
    split at h
    all_goals cases h
    all_goals simp only [MemId.start, MemId.region, MemId.part, MemId.span]; omega
  case h_14 =>
    split at h
    · cases h
      simp only [MemId.start, MemId.region, MemId.part, MemId.span]
      omega
    · rename_i hpart
      cases h
      have hone : off % 2 ^ 24 / 2 ^ 23 ≠ 0 := hpart
      simp only [MemId.start, MemId.region, MemId.part, MemId.span]
      omega
  all_goals cases h
  all_goals simp only [MemId.start, MemId.region, MemId.part, MemId.span]; omega

/-! ### What the window shows of a memory -/

/-- With legal parameters every memory fits its part of the window (rules R5, R62). -/
theorem capacity_le_span {p : Config.Params} (hl : p.legal = true) (id : MemId) : 4 * id.capacity p ≤ id.span := by
  simp only [Config.Params.legal, Bool.and_eq_true, decide_eq_true_eq] at hl
  have hn : p.nMax ≤ 2 ^ 20 := Nat.pow_le_pow_right (by decide) (by omega)
  cases id <;> simp only [MemId.capacity, MemId.span] <;> omega

theorem windowRead_start (s : State) (id : MemId) {i : Nat} (hi : 4 * i < id.span) :
    s.windowRead (id.start + 4 * i) = s.readMapWord ⟨id, i, decide (i < id.capacity s.inst), s.uses id i⟩ := by
  have hlow : ¬ id.start + 4 * i < 2 ^ 24 := by
    have hregion : 1 ≤ id.region := by cases id <;> decide
    unfold MemId.start
    omega
  rw [State.windowRead, if_neg hlow, mapWord_start s id hi]

/-- A word beyond a memory's capacity reads 0. -/
theorem windowRead_beyond (s : State) (id : MemId) {i : Nat} (hi : 4 * i < id.span) (hcap : id.capacity s.inst ≤ i) :
    s.windowRead (id.start + 4 * i) = 0#32 := by
  rw [windowRead_start s id hi, State.readMapWord, decide_eq_false (by omega)]
  rfl

/-- A word that the session uses reads as the memory holds it, of HDR one bit. -/
theorem windowRead_used {s : State} (hl : s.inst.legal = true) (id : MemId) {i : Nat} (hcap : i < id.capacity s.inst)
    (huse : s.uses id i = true) :
    s.windowRead (id.start + 4 * i) = if id = .hdr then s.readWord id i &&& 1#32 else s.readWord id i := by
  have hfit := capacity_le_span hl id
  rw [windowRead_start s id (by omega), State.readMapWord, decide_eq_true hcap, huse]
  rfl

/-- A real entry that the session uses, at word `j` of its region. -/
theorem shows_real {s : State} (hl : s.inst.legal = true) (id : MemId) (hid : id ≠ .hdr) {region i j : Nat}
    (hr : id.region = region) (hj : 4 * j = 4 * i + id.part * id.span) (hcap : i < id.capacity s.inst)
    (huse : s.uses id i = true) : s.windowRead (regionWord region j) = s.readWord id i := by
  have hoff : regionWord region j = id.start + 4 * i := by
    unfold regionWord MemId.start
    omega
  rw [hoff, windowRead_used hl id hcap huse, if_neg hid]

/-- A complex entry that the session uses: two words, real part first. -/
theorem shows_cx {s : State} (hl : s.inst.legal = true) (id : MemId) (hid : id ≠ .hdr) {region k j : Nat}
    (hr : id.region = region) (hj : 4 * j = 4 * (2 * k) + id.part * id.span) (hcap : 2 * k + 1 < id.capacity s.inst)
    (hre : s.uses id (2 * k) = true) (him : s.uses id (2 * k + 1) = true) :
    s.windowRead (regionWord region j) = (s.readCx id k).re
      ∧ s.windowRead (regionWord region (j + 1)) = (s.readCx id k).im :=
  ⟨shows_real hl id hid hr hj (by omega) hre, shows_real hl id hid hr (by omega) hcap him⟩

theorem bankAt_id (b : Bank) : bankAt b.id = b := by cases b <;> rfl

/-- Word `n` of row `r` in a table of rows of `len` words. -/
theorem row_index {r n len : Nat} (hn : n < len) : (r * len + n) / len = r ∧ (r * len + n) % len = n := by
  rw [Nat.mul_comm, Nat.mul_add_div (by omega), Nat.mul_add_mod, Nat.div_eq_of_lt hn, Nat.mod_eq_of_lt hn]
  exact ⟨rfl, rfl⟩

theorem row_index_lt {r n len rows : Nat} (hr : r < rows) (hn : n < len) : r * len + n < rows * len := by
  have := Nat.mul_le_mul_right len (Nat.succ_le_of_lt hr)
  rw [Nat.succ_mul] at this
  omega

theorem mapShows {s : State} (hl : s.inst.legal = true) : MapShows s where
  hdr i hi := windowRead_used hl .hdr hi (decide_eq_true hi)
  xn i hn hcap := shows_real hl .xn (by decide) rfl rfl hcap (decide_eq_true hn)
  spectra region id hmem k hn hcap := by
    simp only [complexRegions, List.mem_cons, Prod.mk.injEq, List.not_mem_nil, or_false] at hmem
    have hcap' : 2 * k + 1 < 2 * s.inst.nMax := by omega
    have hre : 2 * k < 2 * s.size.n.toNat := by omega
    have him : 2 * k + 1 < 2 * s.size.n.toNat := by omega
    rcases hmem with ⟨rfl, rfl⟩ | ⟨rfl, rfl⟩ | ⟨rfl, rfl⟩ | ⟨rfl, rfl⟩
    all_goals exact shows_cx hl _ (by decide) rfl rfl hcap' (decide_eq_true hre) (decide_eq_true him)
  tw k hn hcap :=
    shows_cx hl .tw (by decide) rfl rfl (show 2 * k + 1 < s.inst.nMax by omega) (decide_eq_true (by omega))
      (decide_eq_true (by omega))
  wrom w n hw hn hcap :=
    shows_real hl .wrom (by decide) rfl rfl (row_index_lt hw hcap) (decide_eq_true (by rwa [(row_index hcap).2]))
  coef b n hn hcap := by
    have hb : b.id < 4 := by cases b <;> decide
    refine shows_real hl .coef (by decide) rfl rfl ?_ (decide_eq_true ?_)
    · have hlt := row_index_lt hb hcap
      change _ < 8 * s.inst.tapsMax
      omega
    · rwa [(row_index hcap).1, (row_index hcap).2, bankAt_id]
  bufs i hm hcap := shows_real hl .bufs (by decide) rfl rfl hcap (decide_eq_true hm)
  dcbuf i hm hcap := shows_real hl .dcbuf (by decide) rfl rfl hcap (decide_eq_true hm)
  iqbuf i hm hcap :=
    shows_cx hl .iqbuf (by decide) rfl rfl (show 2 * i + 1 < 2 * s.inst.nMax by omega) (decide_eq_true (by omega))
      (decide_eq_true (by omega))
  lpiq i hn hcap :=
    shows_cx hl .lpiq (by decide) rfl rfl (show 2 * i + 1 < 2 * s.inst.tapsMax by omega) (decide_eq_true (by omega))
      (decide_eq_true (by omega))
  lpfm i hn hcap :=
    shows_real hl .lpfm (by decide) rfl (by simp only [MemId.part, MemId.span]; omega) hcap (decide_eq_true hn)
  decbuf i hn hcap :=
    shows_cx hl .decbuf (by decide) rfl (by simp only [MemId.part, MemId.span]; omega)
      (show 2 * i + 1 < 2 * s.inst.tapsMax by omega) (decide_eq_true (by omega)) (decide_eq_true (by omega))
  template i hn hcap := shows_real hl .matchT (by decide) rfl rfl hcap (decide_eq_true hn)
  rot i hn hcap :=
    shows_cx hl .rot (by decide) rfl (by simp only [MemId.part, MemId.span]; omega)
      (show 2 * i + 1 < 2 * s.inst.rotMax by omega) (decide_eq_true (by omega)) (decide_eq_true (by omega))

/-! ### Words beyond the memories -/

/-- The first word, the capacity and the address space of a memory. -/
def MemId.mapExtent (p : Config.Params) (id : MemId) : Nat × Nat × Nat := (id.start, id.capacity p, id.span / 4)

/-- The parts of the window from region 0x1 on are the memories' and two reserved ones. -/
theorem mapExtents_eq (p : Config.Params) : mapExtents p
    = [.hdr, .xn, .x, .z, .cx, .fm, .tw, .wrom, .coef, .bufs, .dcbuf, .iqbuf, .lpiq, .lpfm, .decbuf].map
        (MemId.mapExtent p) ++ (regionWord 0xD (3 * 2 ^ 20), 0, 2 ^ 20) :: [.matchT, .rot].map (MemId.mapExtent p)
      ++ [(regionWord 0xF 0, 0, 2 ^ 22)] := rfl

theorem mem_mapExtents {p : Config.Params} {e : Nat × Nat × Nat} (h : e ∈ mapExtents p) :
    (∃ id : MemId, e = id.mapExtent p) ∨ e = (regionWord 0xD (3 * 2 ^ 20), 0, 2 ^ 20)
      ∨ e = (regionWord 0xF 0, 0, 2 ^ 22) := by
  rw [mapExtents_eq, List.mem_append, List.mem_append, List.mem_cons, List.mem_singleton] at h
  rcases h with (h | h | h) | h
  · obtain ⟨id, -, rfl⟩ := List.mem_map.1 h
    exact .inl ⟨id, rfl⟩
  · exact .inr (.inl h)
  · obtain ⟨id, -, rfl⟩ := List.mem_map.1 h
    exact .inl ⟨id, rfl⟩
  · exact .inr (.inr h)

/-- In the reserved parts the window has no memory word. -/
theorem windowRead_reserved (s : State) {off : Nat}
    (h : off / 2 ^ 24 = 0xF ∨ off / 2 ^ 24 = 0xD ∧ off % 2 ^ 24 / 2 ^ 22 = 3) : s.windowRead off = 0#32 := by
  have hnone : s.mapWord off = none := by
    rcases h with h | ⟨h, hpart⟩
    · simp only [State.mapWord, h]
    · simp only [State.mapWord, h, hpart]
  rw [State.windowRead, if_neg (by omega), hnone]

end Sys2Proof.Machine

namespace Sys2Proof.Scope

open Machine

/-- Settles O19: `mapShows` reads the map forwards, and `start_of_mapWord` backwards, from the word to its offset. -/
theorem memoryMapOneToOne : Obligations.MemoryMapOneToOne := by
  refine ⟨fun s hl => mapShows hl, ?beyond, ?injective⟩
  case beyond =>
    intro s start capacity extent i hmem hcap hi
    rcases mem_mapExtents hmem with ⟨id, h⟩ | h | h
    · cases h
      exact windowRead_beyond s id (by omega) hcap
    · cases h
      exact windowRead_reserved s (.inr (by unfold regionWord; omega))
    · cases h
      exact windowRead_reserved s (.inl (by unfold regionWord; omega))
  case injective =>
    intro s off off' w w' _ _ hoff hoff' hw hw' hid hidx
    rw [start_of_mapWord hoff hw, start_of_mapWord hoff' hw', hid, hidx]

end Sys2Proof.Scope
end

section
/-! SUPPORT. The sample step stage by stage: which memories a stage leaves alone, what the acquisition comes to, and
what a completed step leaves (rules R141 to R151, R160, R171). -/

namespace Sys2Proof.Machine

/-! ### Which memories a stage leaves alone -/

theorem byte_congr {s t : State} {id : MemId} (h : t.mem.get id = s.mem.get id) (a : Nat) : t.byte id a = s.byte id a :=
  congrArg (Memory.get · a) h

section
variable (s : State) {id : MemId}

theorem get_writeWords {m : MemId} (i : Nat) (ws : List Word) (h : id ≠ m) :
    (s.writeWords m i ws).mem.get id = s.mem.get id := Mems.get_set_of_ne _ _ _ _ h

theorem get_writeCxs {m : MemId} (i : Nat) (cs : List Cx) (h : id ≠ m) :
    (s.writeCxs m i cs).mem.get id = s.mem.get id := get_writeWords s _ _ h

/-- One frame through the rotator (rule R149): an entry of DECBUF, the estimator, SDEC. -/
theorem rotateIn_eq (f : Frame) : s.rotateIn f =
    { s.writeCxs .decbuf (s.run.sdec.toNat % s.size.taps0.toNat)
        [cmul (s.readComplex f).1 (s.readCx .rot (s.run.sdec.toNat % s.size.rotLen.toNat))] with
      run := { (s.readComplex f).2.run with
        sdec := BitVec.ofNat 32 ((s.run.sdec.toNat + 1) % (s.size.taps0.toNat * s.size.rotLen.toNat)) } } := by
  obtain ⟨avgX, avgY, sumX, sumY, cnt, m, h, -⟩ :=
    iqdcUpdate_eq s (convSample s.cfg.bps f.r0) (convSample s.cfg.bps f.r1)
  unfold State.rotateIn
  obtain ⟨⟨z, t⟩, hread⟩ : ∃ p, s.readComplex f = p := ⟨_, rfl⟩
  obtain rfl : t = _ := (congrArg Prod.snd hread).symm.trans h
  rw [hread]
  rfl

theorem get_foldl_rotateIn (fs : List Frame) (h : id ≠ .decbuf) :
    (fs.foldl State.rotateIn s).mem.get id = s.mem.get id := by
  induction fs generalizing s with
  | nil => rfl
  | cons f rest ih =>
    rw [List.foldl_cons, ih, rotateIn_eq]
    exact get_writeCxs s _ _ h

theorem get_ifStage (z : Cx) (h : id ≠ .lpiq) : (s.ifStage z).2.mem.get id = s.mem.get id := by
  unfold State.ifStage
  split
  · exact get_writeCxs s _ _ h
  · rfl

theorem get_fmStage (v : Word) (h : id ≠ .lpfm) : (s.fmStage v).2.mem.get id = s.mem.get id := by
  unfold State.fmStage
  split
  · exact get_writeWords s _ _ h
  · rfl

theorem get_iqStages (n : Word) (z : Cx) (hif : id ≠ .lpiq) (hiq : id ≠ .iqbuf) (hdc : id ≠ .dcbuf) (hfm : id ≠ .lpfm) :
    (s.iqStages n z).2.mem.get id = s.mem.get id := by
  unfold State.iqStages
  exact (get_fmStage _ _ hfm).trans ((get_writeWords _ _ _ hdc).trans
    ((get_writeCxs _ _ _ hiq).trans (get_ifStage s _ hif)))

end

/-! ### The frames of the SOURCE -/

/-- The frames that a sample step takes (rules R149, R151, R160). -/
def State.framesNeeded (s : State) : Nat := if s.cfg.iq = true ∧ s.cfg.decim = true then s.size.decm.toNat else 1

theorem pull_of_framesLeft {s : State} {n : Nat} (he : s.status.eos = false) (hn : s.framesLeft n = true) :
    pull n s =
      (some ((List.range n).map (fun k => s.source.frame (s.srcPos + k))), { s with srcPos := s.srcPos + n }) := by
  simp [pull, he, hn]

theorem pullOne_of_framesLeft {s : State} (he : s.status.eos = false) (hn : s.framesLeft 1 = true) :
    pullOne s = (some (s.source.frame s.srcPos), { s with srcPos := s.srcPos + 1 }) := by
  simp [pullOne, pull_of_framesLeft he hn]

/-! ### The acquisition -/

/-- The filter of rule R125 as an ordered sum. -/
theorem accumulate_eq_filterSum (x c : Nat → Word) (n : Nat) :
    accumulate ((List.range n).map x) ((List.range n).map c) = filterSum x c n := by
  unfold accumulate filterSum
  rw [List.zip_map', List.foldl_map]

theorem lowPassCx_eq_filterOutput (s : State) (line : MemId) (newest n : Nat) (b : Bank) : s.lowPassCx line newest n b
    = ⟨s.filterOutput (fun i => (s.readCx line i).re) b.id newest n,
      s.filterOutput (fun i => (s.readCx line i).im) b.id newest n⟩ := by
  unfold State.lowPassCx State.filterRow State.readCxs
  dsimp only
  rw [List.map_map, List.map_map, accumulate_eq_filterSum, accumulate_eq_filterSum]
  rfl

/-- The estimator reads neither the SOURCE's position nor the HOST's moments. -/
theorem iqdcUpdate_outside (s : State) (p : Nat) (d : List (List HostEvent)) (x y : Word) :
    { s with srcPos := p, during := d }.iqdcUpdate x y
      = { s with srcPos := p, during := d, run := (s.iqdcUpdate x y).run } := by
  unfold State.iqdcUpdate
  by_cases h : s.run.iqdcCnt + 1#32 = s.run.iqdcMaxCnt
  · rw [if_pos h, if_pos h]
    rfl
  · rw [if_neg h, if_neg h]

/-- Without DECIM the acquisition takes one frame (rules R145, R151). -/
theorem acquire_direct {s : State} (hd : s.cfg.decim = false) (he : s.status.eos = false) (hn : s.framesLeft 1 = true) :
    acquire s = (some (s.readComplex (s.source.frame s.srcPos)).1,
      { s with srcPos := s.srcPos + 1, run := (s.readComplex (s.source.frame s.srcPos)).2.run }) := by
  rw [acquire, if_neg (by simp [hd]), pullOne_of_framesLeft he hn]
  exact Prod.ext rfl (iqdcUpdate_outside s (s.srcPos + 1) s.during _ _)

/-- With DECIM it takes S_DECM frames (rule R149). -/
theorem acquire_decimated {s u : State} (hd : s.cfg.decim = true) (he : s.status.eos = false)
    (hn : s.framesLeft s.size.decm.toNat = true)
    (hu : u = ((List.range s.size.decm.toNat).map (fun k => s.source.frame (s.srcPos + k))).foldl State.rotateIn
      { s with srcPos := s.srcPos + s.size.decm.toNat }) :
    acquire s = (some (u.lowPassCx .decbuf (newestIndex u.run.sdec.toNat u.size.taps0.toNat) u.size.taps0.toNat .decim),
      u) := by
  rw [acquire, if_pos hd, acquireDecim, pull_of_framesLeft he hn, hu]

theorem acquisitionStages : AcquisitionStages := by
  refine ⟨fun s hd he hn => acquire_direct hd he hn, fun s f => ?rotator, fun s hd he hn => ?decimated⟩
  case rotator =>
    dsimp only
    rw [rotateIn_eq]
    refine ⟨?_, fun id a h => ?_, rfl⟩
    · refine (State.readCx_writeCxs s .decbuf .decbuf _ _ _).trans ?_
      rw [if_pos ⟨rfl, le_rfl, Nat.lt_succ_self _⟩, Nat.sub_self]
      rfl
    · exact s.byte_writeWords _ _ _ _ a h
  case decimated =>
    dsimp only
    rw [acquire_decimated hd he hn rfl, lowPassCx_eq_filterOutput]
    rfl

/-- An acquired sample: frames taken, and stages that write no memory but DECBUF. -/
theorem acquire_some_stages {s t : State} {z : Cx} (h : acquire s = (some z, t)) :
    StageSpec { s with srcPos := s.srcPos + if s.cfg.decim = true then s.size.decm.toNat else 1 } t
      ∧ ∀ id, id ≠ .decbuf → t.mem.get id = s.mem.get id := by
  unfold acquire at h
  split at h
  · rename_i hd
    unfold acquireDecim at h
    split at h
    · cases h
    · rename_i u hp
      obtain ⟨rfl, -, -⟩ := pull_some hp
      cases h
      rw [if_pos hd]
      exact ⟨foldl_rotateIn_spec _ _, fun id hid => get_foldl_rotateIn _ _ hid⟩
  · rename_i hd
    split at h
    · rename_i f u hp
      obtain ⟨rfl, -⟩ := pullOne_some hp
      cases h
      rw [if_neg hd]
      exact ⟨readComplex_spec _ _, fun id _ => by rw [State.readComplex, iqdcUpdate_outside _ _ s.during]⟩
    · cases h

theorem acquire_isSome {s : State} (he : s.status.eos = false)
    (hn : s.framesLeft (if s.cfg.decim = true then s.size.decm.toNat else 1) = true) :
    ∃ z t, acquire s = (some z, t) := by
  cases hd : s.cfg.decim with
  | true => exact ⟨_, _, acquire_decimated hd he (by simpa [hd] using hn) rfl⟩
  | false => exact ⟨_, _, acquire_direct hd he (by simpa [hd] using hn)⟩

/-! ### The completed sample step -/

/-- The block `u` before the end of a completed sample step that answers `v` (rules R151, R160): what the stages have
done, and in IQ mode which they are. -/
structure Sampled (s u : State) (v : Word) : Prop where
  stages : StageSpec { s with srcPos := s.srcPos + s.framesNeeded } u
  mem : ∀ id, sampleMem id = false ∨ id = .bufs → u.mem.get id = s.mem.get id
  iq : s.cfg.iq = true → ∃ z w, acquire s = (some z, w) ∧ w.iqStages s.run.sampleIn z = (v, u)

theorem demodStep_stages {s t : State} {v : Word} (h : demodStep s = (some v, t)) :
    ∃ u, Sampled s u v ∧ t = u.appendSample s.run.sampleIn v := by
  unfold demodStep at h
  dsimp only at h
  split at h
  · rename_i hiq
    split at h
    · cases h
    · rename_i z w hz
      cases h
      obtain ⟨hspec, hmem⟩ := acquire_some_stages hz
      have hneed : s.framesNeeded = if s.cfg.decim = true then s.size.decm.toNat else 1 := by
        simp [State.framesNeeded, hiq]
      refine ⟨_, ⟨?_, fun id hid => ?_, fun _ => ⟨z, w, hz, rfl⟩⟩, rfl⟩
      · rw [hneed]
        exact hspec.trans (iqStages_spec _ _ _)
      · have hother : id ≠ .lpiq ∧ id ≠ .iqbuf ∧ id ≠ .dcbuf ∧ id ≠ .lpfm ∧ id ≠ .decbuf := by
          rcases hid with hid | rfl
          · simp only [sampleMem, decide_eq_false_iff_not, not_or] at hid
            tauto
          · decide
        obtain ⟨hif, hiqbuf, hdc, hfm, hdec⟩ := hother
        exact (get_iqStages w _ _ hif hiqbuf hdc hfm).trans (hmem id hdec)
  · rename_i hiq
    split at h
    · cases h
    · rename_i f u hp
      obtain ⟨rfl, -⟩ := pullOne_some hp
      cases h
      have hneed : s.framesNeeded = 1 := by simp [State.framesNeeded, hiq]
      refine ⟨{ s with srcPos := s.srcPos + 1 }, ⟨?_, fun _ _ => rfl, fun hiq' => absurd hiq' hiq⟩, rfl⟩
      rw [hneed]
      exact StageSpec.refl _

/-- With the frames it needs left, a sample step completes (rules R141, R160). -/
theorem demodStep_isSome {s : State} (he : s.status.eos = false) (hn : s.framesLeft s.framesNeeded = true) :
    ∃ v t, demodStep s = (some v, t) := by
  unfold demodStep
  dsimp only
  split
  · rename_i hiq
    obtain ⟨z, t, hz⟩ := acquire_isSome he (by simpa [State.framesNeeded, hiq] using hn)
    rw [hz]
    exact ⟨_, _, rfl⟩
  · rename_i hiq
    rw [pullOne_of_framesLeft he (by simpa [State.framesNeeded, hiq] using hn)]
    exact ⟨_, _, rfl⟩

/-- A completed sample step leaves every memory alone that is not its own (rule R160). -/
theorem get_demodStep_some {s t : State} {v : Word} (h : demodStep s = (some v, t)) {id : MemId}
    (hid : sampleMem id = false) : t.mem.get id = s.mem.get id := by
  obtain ⟨u, hu, rfl⟩ := demodStep_stages h
  have hbufs : id ≠ .bufs := by
    rintro rfl
    cases hid
  exact (get_writeWords u _ _ hbufs).trans (hu.mem id (.inl hid))

/-! ### DEMOD_STEP -/

/-- DEMOD_STEP in READY (rule R161). -/
theorem exec_demodStep_some {s u : State} {v : Word} (hf : s.status.fault = false) (hr : s.status.session = .ready)
    (h : demodStep s.beginCommand = (some v, u)) : exec .demodStep s = .next ((u.setRes0 v).endCommand 0#32) := by
  change runCommand .demodStep demodStepBody s = _
  rw [runCommand_run .demodStep _ s hf rfl (by simp [legalIn, hr]), demodStepBody, if_neg (by simp [hr]), h]
  rfl

/-- A sample step within a command, and its result. -/
theorem SampleSpec.completed {s u : State} {v : Word} (h : SampleSpec s.beginCommand u) :
    Completed 0#32 s ((u.setRes0 v).endCommand 0#32) where
  inst := h.only.inst
  active := h.only.active
  arg := h.only.arg
  latch := h.only.latch
  cfg := h.only.cfg
  source := h.only.source
  host := h.only.host
  during := h.only.during
  hostReads := h.only.hostReads
  fcause := h.only.fcause
  finfo := h.only.finfo
  size := h.only.size
  result := rfl
  status := by
    rw [endCommand_status, setRes0_status, h.status]
    rfl

/-- BUFS after the end of a sample step: the new entry, and nothing else. -/
theorem readWord_appendSample (s : State) (n v : Word) : (s.appendSample n v).readWord .bufs (s.circ n) = v := by
  refine (State.readWord_writeWords s .bufs .bufs _ _ [v]).trans ?_
  rw [if_pos ⟨rfl, le_rfl, Nat.lt_succ_self _⟩, Nat.sub_self]
  rfl

end Sys2Proof.Machine

namespace Sys2Proof.Scope

open Machine

/-- Settles O28: a step that has its frames completes (`demodStep_isSome`), `demodStep_stages` says how, and
`acquisitionStages` what its first stage is. -/
theorem demodStepCompletes : Obligations.DemodStepCompletes := by
  refine ⟨fun s hf hr he hn => ?_, acquisitionStages⟩
  obtain ⟨v, t, ht⟩ := demodStep_isSome (s := s.beginCommand) he hn
  have hspec := demodStep_some ht
  obtain ⟨u, hu, rfl⟩ := demodStep_stages ht
  have hcirc : u.circ s.run.sampleIn = s.run.sampleIn.toNat % s.size.m.toNat := by
    rw [State.circ, hu.stages.only.size]
    rfl
  refine ⟨_, exec_demodStep_some hf hr ht, hspec.completed, ?kept, hspec.sampleIn, ?sampleOut, ?res,
    hu.stages.only.srcPos, fun id a hid => byte_congr (get_demodStep_some ht hid) a, fun a ha => ?bufs, fun hiq => ?iq⟩
  case kept =>
    obtain ⟨hmv, hmvPos, hdc, hdf, hddf, hbuffered, hsc, hbg, hnosig, hkcnt⟩ := hspec.kept
    exact ⟨hmv, hmvPos, hdc, hdf, hddf, hbuffered, hsc, hbg, hnosig, hkcnt⟩
  case sampleOut =>
    rw [endCommand_run, setRes0_run, hspec.sampleOut, hspec.sampleIn, BitVec.add_sub_cancel]
    rfl
  case res =>
    rw [← hcirc, endCommand_res, setRes0_res, hspec.only.res]
    exact congrArg (fun w => { s.res with r0 := w }) (readWord_appendSample u s.run.sampleIn v).symm
  case bufs =>
    rw [← hcirc] at ha
    exact (u.byte_writeWords .bufs .bufs _ [v] a ha).trans (byte_congr (hu.mem .bufs (.inr rfl)) a)
  case iq =>
    obtain ⟨z, w, hz, hout⟩ := hu.iq hiq
    have hv : (w.iqStages s.run.sampleIn z).1 = v := congrArg Prod.fst hout
    have hu' : (w.iqStages s.run.sampleIn z).2 = u := congrArg Prod.snd hout
    refine ⟨z, w, hz, ?_⟩
    rw [hv, hu']
    exact ⟨rfl, rfl, fun id a hid => byte_congr (get_writeWords u _ _ hid) a⟩

end Sys2Proof.Scope
end

section
/-! SUPPORT. Commands of many sample steps: what the HOST's moments and the command's own stages leave alone while such
a command runs, and what a hardware reset in a moment leaves (rules R16, R74, R257, R281). -/

namespace Sys2Proof.Machine

/-! ### The fault record -/

/-- The fault record stays, or a HostAccess fault is the first to be recorded (rules R255 to R257). -/
def RecordKept (s t : State) : Prop :=
  (t.status.fault = s.status.fault ∧ t.fcause = s.fcause ∧ t.finfo = s.finfo)
    ∨ (t.status.fault = true ∧ t.fcause = 4#32)

theorem RecordKept.refl (s : State) : RecordKept s s := .inl ⟨rfl, rfl, rfl⟩

theorem RecordKept.trans {s t u : State} (h : RecordKept s t) (k : RecordKept t u) : RecordKept s u := by
  rcases k with ⟨hfault, hcause, hinfo⟩ | k
  · rcases h with ⟨hfault', hcause', hinfo'⟩ | ⟨hfault', hcause'⟩
    · exact .inl ⟨hfault.trans hfault', hcause.trans hcause', hinfo.trans hinfo'⟩
    · exact .inr ⟨hfault.trans hfault', hcause.trans hcause'⟩
  · exact .inr k

theorem recorded_recordKept (s : State) (off : Nat) : RecordKept s (s.recorded off) := by
  unfold RecordKept State.recorded
  cases s.status.fault <;> simp

theorem busRead_recordKept (s : State) (width addr : Nat) : RecordKept s (s.busRead width addr) := by
  unfold State.busRead
  split
  · unfold State.hostRead
    split
    · exact recorded_recordKept s (offsetOf addr)
    · exact .refl s
  · exact .refl s

theorem busWrite_recordKept {s : State} (width addr : Nat) (v : Word) (hb : s.status.busy = true) :
    RecordKept s (s.busWrite width addr v) := by
  unfold State.busWrite
  split
  · by_cases hc : width = 4 ∧ offsetOf addr = 0x004
    · obtain ⟨rfl, ho⟩ := hc
      rw [ho, hostWrite_ctrl]
      exact .refl s
    · rw [hostWrite_forbidden v (by tauto)]
      exact recorded_recordKept s _
  · exact .refl s

/-! ### The HOST's events in one moment -/

theorem duringEvents_done {es : List HostEvent} {s : State} (hb : s.status.busy = true)
    (hn : HostEvent.hardReset ∉ es) : ∃ t, duringEvents es s = .done () t ∧ BusyAccess s t ∧ RecordKept s t := by
  induction es generalizing s with
  | nil => exact ⟨s, rfl, .refl s, .refl s⟩
  | cons e rest ih =>
    rw [List.mem_cons, not_or] at hn
    have access {u : State} (hu : BusyAccess s u) (hrec : RecordKept s u) :
        ∃ t, duringEvents rest u = .done () t ∧ BusyAccess s t ∧ RecordKept s t := by
      obtain ⟨t, ht, hacc, hrec'⟩ := ih (hu.busy.trans hb) hn.2
      exact ⟨t, ht, hu.trans hacc, hrec.trans hrec'⟩
    cases e with
    | read width addr => exact access (busRead_access s width addr) (busRead_recordKept s width addr)
    | write width addr v => exact access (busWrite_access s width addr v hb) (busWrite_recordKept width addr v hb)
    | hardReset => exact absurd rfl hn.1

theorem duringEvents_append {before : List HostEvent} {s t : State} (h : duringEvents before s = .done () t)
    (rest : List HostEvent) : duringEvents (before ++ rest) s = duringEvents rest t := by
  induction before generalizing s with
  | nil =>
    cases h
    rfl
  | cons e later ih =>
    cases e with
    | read width addr => exact ih h
    | write width addr v => exact ih h
    | hardReset => cases h

/-- The first hardware reset among the events abandons the command; the events after it go to the idle block (rule
R281). -/
theorem duringEvents_reset {before : List HostEvent} {s : State} (hb : s.status.busy = true)
    (hn : HostEvent.hardReset ∉ before) (after : List HostEvent) :
    ∃ t, duringEvents (before ++ .hardReset :: after) s = .reset t ∧ AfterReset s t ∧ t.host = after ++ s.host := by
  obtain ⟨u, hu, ⟨a, f, c, i, r, n, rfl⟩, -⟩ := duringEvents_done hb hn
  exact ⟨_, duringEvents_append hu _, ⟨_, _, _, rfl⟩, rfl⟩

/-- What an abandoned command leaves (rules R58, R281). -/
theorem AfterReset.shows {s t : State} (h : AfterReset s t) : ReadsAsReset t ∧ t.status = Status.reset
    ∧ t.run = Run.reset ∧ t.srcPos = s.srcPos ∧ t.source = s.source ∧ t.inst = s.inst ∧ t.during = s.during := by
  obtain ⟨r, n, q, rfl⟩ := h
  exact ⟨⟨readReg_reset, byte_of_reset rfl⟩, rfl, rfl, rfl, rfl, rfl, rfl⟩

/-! ### What stays while the command runs -/

/-- What a command of many sample steps leaves alone as long as it runs, whatever the HOST does but reset the block
(rules R74, R257). With no HOST access coming, the HOST's part of the block stays too. -/
structure Meanwhile (s t : State) : Prop where
  inst : t.inst = s.inst
  arg : t.arg = s.arg
  latch : t.latch = s.latch
  res : t.res = s.res
  cfg : t.cfg = s.cfg
  size : t.size = s.size
  source : t.source = s.source
  host : t.host = s.host
  busy : t.status.busy = s.status.busy
  session : t.status.session = s.status.session
  eos : t.status.eos = s.status.eos
  lost : t.status.lost = s.status.lost
  record : RecordKept s t
  later : t.during <:+ s.during
  undisturbed : s.during = [] → t.active = s.active ∧ t.hostReads = s.hostReads ∧ t.status.fault = s.status.fault
    ∧ t.fcause = s.fcause ∧ t.finfo = s.finfo

/-- What the command's own stages can change: run-time registers, memories, the SOURCE's position, LOCKED, DETSTATE. -/
def Works (s t : State) : Prop :=
  ∃ r m p n l d, t = { s with
    run := r, mem := m, srcPos := p, free := n, status := { s.status with locked := l, det := d } }

theorem Works.meanwhile {s t : State} (h : Works s t) : Meanwhile s t := by
  obtain ⟨r, m, p, n, l, d, rfl⟩ := h
  exact ⟨rfl, rfl, rfl, rfl, rfl, rfl, rfl, rfl, rfl, rfl, rfl, rfl, .refl s, List.suffix_rfl,
    fun _ => ⟨rfl, rfl, rfl, rfl, rfl⟩⟩

theorem Meanwhile.refl (s : State) : Meanwhile s s := Works.meanwhile ⟨_, _, _, _, _, _, rfl⟩

theorem Meanwhile.trans {s t u : State} (h : Meanwhile s t) (k : Meanwhile t u) : Meanwhile s u where
  inst := k.inst.trans h.inst
  arg := k.arg.trans h.arg
  latch := k.latch.trans h.latch
  res := k.res.trans h.res
  cfg := k.cfg.trans h.cfg
  size := k.size.trans h.size
  source := k.source.trans h.source
  host := k.host.trans h.host
  busy := k.busy.trans h.busy
  session := k.session.trans h.session
  eos := k.eos.trans h.eos
  lost := k.lost.trans h.lost
  record := h.record.trans k.record
  later := k.later.trans h.later
  undisturbed hd := by
    obtain ⟨hactive, hreads, hfault, hcause, hinfo⟩ := h.undisturbed hd
    obtain ⟨kactive, kreads, kfault, kcause, kinfo⟩ := k.undisturbed (List.suffix_nil.1 (hd ▸ h.later))
    exact ⟨kactive.trans hactive, kreads.trans hreads, kfault.trans hfault, kcause.trans hcause, kinfo.trans hinfo⟩

/-- A command of many sample steps runs, the stream has not ended, and no hardware reset comes. -/
structure State.Underway (s : State) : Prop where
  busy : s.status.busy = true
  eos : s.status.eos = false
  noReset : ∀ events ∈ s.during, HostEvent.hardReset ∉ events

theorem Meanwhile.underway {s t : State} (h : Meanwhile s t) (hs : s.Underway) : t.Underway :=
  ⟨h.busy.trans hs.busy, h.eos.trans hs.eos, fun events he => hs.noReset events (h.later.subset he)⟩

/-! ### The moment before a sample step -/

/-- What the HOST's accesses in one moment leave alone (rule R74). -/
structure Moment (s t : State) : Prop extends Meanwhile s t where
  run : t.run = s.run
  mem : t.mem = s.mem
  locked : t.status.locked = s.status.locked
  det : t.status.det = s.status.det

theorem hostMoment_done {s : State} (hs : s.Underway) : ∃ t, hostMoment s = .done () t ∧ Moment s t := by
  unfold hostMoment
  split
  · exact ⟨s, rfl, .refl s, rfl, rfl, rfl, rfl⟩
  · rename_i es later hd
    obtain ⟨t, ht, ⟨a, f, c, i, r, n, rfl⟩, hrec⟩ := duringEvents_done (s := { s with during := later }) hs.busy
      (hs.noReset es (hd ▸ List.mem_cons_self))
    exact ⟨_, ht, ⟨rfl, rfl, rfl, rfl, rfl, rfl, rfl, rfl, rfl, rfl, rfl, rfl, hrec, hd ▸ List.suffix_cons _ _,
      fun hnil => by rw [hnil] at hd; cases hd⟩, rfl, rfl, rfl, rfl⟩

theorem hostMoment_idle {s : State} (hd : s.during = []) : hostMoment s = .done () s := by rw [hostMoment, hd]

theorem hostMoment_cons {s : State} {es : List HostEvent} {later : List (List HostEvent)}
    (hd : s.during = es :: later) : hostMoment s = duringEvents es { s with during := later } := by rw [hostMoment, hd]

/-! ### The sample step within a command -/

theorem SampleSpec.works {s t : State} (h : SampleSpec s t) : Works s t :=
  ⟨t.run, t.mem, t.srcPos, s.free, s.status.locked, s.status.det, Eq.trans h.only (by rw [h.status])⟩

/-- The end of the stream, declared (rule R141). -/
def State.atEos (s : State) : State := { s with srcPos := s.source.frames.length }.setEos

theorem pull_eos {n : Nat} {s t : State} (he : s.status.eos = false) (h : pull n s = (none, t)) : t = s.atEos := by
  rcases pull_cases n s with ⟨fs, hp, -, -⟩ | ⟨-, heos⟩ | ⟨hp, -⟩
  · rw [hp] at h
    cases h
  · rw [heos] at he
    cases he
  · rw [hp] at h
    cases h
    rfl

theorem pullOne_eos {s t : State} (he : s.status.eos = false) (h : pullOne s = (none, t)) : t = s.atEos := by
  rcases pullOne_cases s with ⟨f, hp, -⟩ | ⟨-, heos⟩ | ⟨hp, -⟩
  · rw [hp] at h
    cases h
  · rw [heos] at he
    cases he
  · rw [hp] at h
    cases h
    rfl

/-- A sample step that finds too few frames declares the end of the stream and does nothing else (rules R141, R160). -/
theorem demodStep_eos {s t : State} (he : s.status.eos = false) (h : demodStep s = (none, t)) : t = s.atEos := by
  unfold demodStep at h
  dsimp only at h
  split at h
  · split at h
    · rename_i u hz
      cases h
      unfold acquire at hz
      split at hz
      · unfold acquireDecim at hz
        split at hz
        · rename_i w hp
          cases hz
          exact pull_eos he hp
        · cases hz
      · split at hz
        · cases hz
        · rename_i w hp
          cases hz
          exact pullOne_eos he hp
    · cases h
  · split at h
    · rename_i u hp
      cases h
      exact pullOne_eos he hp
    · cases h

/-! ### How the command ends -/

/-- The end of a command: RESULT, RES, STATUS but FAULT, run-time registers, the SOURCE's position. -/
def Closing (u t : State) : Prop :=
  ∃ c q st r p, st.busy = false ∧ st.fault = u.status.fault
    ∧ t = { u with result := c, res := q, status := st, run := r, srcPos := p }

theorem Closing.of_eq {u t : State} (hbusy : t.status.busy = false) (hfault : t.status.fault = u.status.fault)
    (h : t = { u with result := t.result, res := t.res, status := t.status, run := t.run, srcPos := t.srcPos }) :
    Closing u t := ⟨_, _, _, _, _, hbusy, hfault, h⟩

theorem Meanwhile.keptWhileBusy {s u t : State} (hf : s.status.fault = false) (h : Meanwhile s.beginCommand u)
    (ht : Closing u t) : KeptWhileBusy s t ∧ (s.during = [] → Kept s t ∧ t.status.fault = false) := by
  obtain ⟨c, q, st, r, p, hbusy, hfault, rfl⟩ := ht
  refine ⟨⟨h.inst, h.arg, h.latch, h.cfg, h.size, h.source, h.host, hbusy, ?_⟩, fun hd => ?_⟩
  · rcases h.record with ⟨hfault', hcause, hinfo⟩ | ⟨hfault', hcause⟩
    · exact .inl ⟨hfault.trans (hfault'.trans hf), hcause, hinfo⟩
    · exact .inr ⟨hfault.trans hfault', hcause⟩
  · obtain ⟨hactive, hreads, hfault', hcause, hinfo⟩ := h.undisturbed hd
    have hduring : u.during = s.during := (List.suffix_nil.1 (hd ▸ h.later)).trans hd.symm
    exact ⟨⟨⟨h.inst, hactive, h.arg, h.latch, h.cfg, h.source, h.host, hduring, hreads⟩, hcause, hinfo, h.size⟩,
      hfault.trans (hfault'.trans hf)⟩

end Sys2Proof.Machine
end

section
/-! SUPPORT. The search of FIND_HDR: what its iterations leave alone, how it ends when no hardware reset comes, and what
verification counts (rules R185 to R202). -/

namespace Sys2Proof.Machine

/-! ### Which memories a correlation step leaves alone -/

section
variable (s : State) {id : MemId} (h : corrMem id = false)
include h

theorem corrMem_ne : id ≠ .xn ∧ id ≠ .x ∧ id ≠ .z ∧ id ≠ .cx := by
  simp only [corrMem, decide_eq_false_iff_not, not_or] at h
  exact h

theorem get_extract (buf : MemId) : (s.extract buf).mem.get id = s.mem.get id := by
  obtain ⟨hxn, hx, -, -⟩ := corrMem_ne h
  exact (get_writeCxs _ 0 _ hx).trans (get_writeWords s 0 _ hxn)

theorem get_removeDc : s.removeDc.mem.get id = s.mem.get id := by
  obtain ⟨hxn, hx, -, hcx⟩ := corrMem_ne h
  exact (get_writeWords _ 0 _ hxn).trans ((get_writeCxs _ 0 _ hcx).trans (get_writeCxs s 0 _ hx))

theorem get_correlate : s.correlate.mem.get id = s.mem.get id := by
  obtain ⟨-, -, hz, hcx⟩ := corrMem_ne h
  exact (get_writeCxs _ 0 _ hcx).trans (get_writeCxs s 0 _ hz)

theorem get_corrPass (buf : MemId) (dcz : Bool) : (s.corrPass buf dcz).2.mem.get id = s.mem.get id := by
  unfold State.corrPass
  cases dcz with
  | false => exact (get_correlate _ h).trans (get_extract s h buf)
  | true => exact (get_correlate _ h).trans ((get_removeDc _ h).trans (get_extract s h buf))

theorem get_bestPass (thres : Word) : (s.bestPass thres).2.2.mem.get id = s.mem.get id := by
  have hfirst := get_corrPass s h .bufs s.cfg.corrDcz
  unfold State.bestPass
  dsimp only
  split
  · split
    · exact (get_corrPass _ h _ _).trans hfirst
    · exact (get_corrPass _ h _ _).trans hfirst
  · exact hfirst

theorem get_corrStep (thres : Word) : (s.corrStep thres).2.mem.get id = s.mem.get id := by
  obtain ⟨mv, mvPos, b, e⟩ := recordPeak_eq ((s.bestPass thres).2.2.recordDc (s.bestPass thres).1.dc)
    (s.bestPass thres).1
  unfold State.corrStep
  dsimp only
  rw [e]
  exact get_bestPass s h thres

end

/-! ### What the search leaves alone -/

/-- What FIND_HDR leaves alone until it ends: also the symbol clock, and every memory but those of sample and
correlation steps. -/
structure SearchKept (s t : State) : Prop extends Meanwhile s t where
  sc : t.run.sc = s.run.sc
  bg : t.run.bg = s.run.bg
  mem : ∀ id, sampleMem id = false → corrMem id = false → t.mem.get id = s.mem.get id

theorem SearchKept.trans {s t u : State} (h : SearchKept s t) (k : SearchKept t u) : SearchKept s u :=
  ⟨h.toMeanwhile.trans k.toMeanwhile, k.sc.trans h.sc, k.bg.trans h.bg,
    fun id hs hc => (k.mem id hs hc).trans (h.mem id hs hc)⟩

theorem Moment.search {s t : State} (h : Moment s t) : SearchKept s t :=
  ⟨h.toMeanwhile, by rw [h.run], by rw [h.run], fun _ _ _ => by rw [h.mem]⟩

theorem SearchKept.of_sample {s t : State} {v : Word} (h : demodStep s = (some v, t)) : SearchKept s t :=
  have hspec := demodStep_some h
  ⟨hspec.works.meanwhile, hspec.kept.sc, hspec.kept.bg, fun _ hs _ => get_demodStep_some h hs⟩

theorem SearchKept.of_corrStep (s : State) (thres : Word) : SearchKept s (s.corrStep thres).2 := by
  have hmem : ∀ id, corrMem id = false → (s.corrStep thres).2.mem.get id = s.mem.get id :=
    fun _ hc => get_corrStep s hc thres
  obtain ⟨m, mv, mvPos, dc, ddf, b, e⟩ := corrStep_eq s thres
  rw [e] at hmem ⊢
  exact ⟨Works.meanwhile ⟨_, _, _, _, _, _, rfl⟩, rfl, rfl, fun id _ hc => hmem id hc⟩

/-- A stage that writes the search's own registers and flags. -/
theorem SearchKept.of_flags (s : State) (r : Run) (n : Nat) (l : Bool) (d : DetState) (hsc : r.sc = s.run.sc)
    (hbg : r.bg = s.run.bg) :
    SearchKept s { s with run := r, free := n, status := { s.status with locked := l, det := d } } :=
  ⟨Works.meanwhile ⟨_, _, _, _, _, _, rfl⟩, hsc, hbg, fun _ _ _ => rfl⟩

theorem trackCarrier_kept (s : State) :
    SearchKept s s.trackCarrier ∧ s.trackCarrier.run = { s.run with df := s.trackCarrier.run.df } := by
  obtain ⟨df, l, e⟩ := trackCarrier_eq s
  rw [e]
  exact ⟨.of_flags s _ s.free l s.status.det rfl rfl, rfl⟩

/-! ### One iteration -/

/-- The block `c` as a header is accepted in it (rules R198, R199, R202). -/
structure HeaderAt (thres : Word) (maxerr : Nat) (c : State) : Prop where
  kcnt : c.run.kcnt = 0#32
  peak : fgt (fabs c.run.mv) thres = true
  errors : c.headCmp.1.toNat ≤ maxerr

/-- A candidate is verified in the block as the carrier loop leaves it (rule R202). -/
theorem candidate_cases (s : State) (maxerr : Nat) : ∃ c, SearchKept s c ∧ c.run = { s.run with df := c.run.df }
    ∧ (s.candidate maxerr = (true, c.headerFound c.headCmp.1) ∧ c.headCmp.1.toNat ≤ maxerr
      ∨ s.candidate maxerr = (false, c.fresh.setDet .searching)) := by
  have hpeak : SearchKept s (s.setDet .peakFound) := .of_flags s s.run s.free s.status.locked .peakFound rfl rfl
  obtain ⟨hkept, hrun⟩ := trackCarrier_kept (s.setDet .peakFound)
  refine ⟨(s.setDet .peakFound).trackCarrier, hpeak.trans hkept, hrun, ?_⟩
  by_cases herr : (s.setDet .peakFound).trackCarrier.headCmp.1.toNat ≤ maxerr
  · exact .inl ⟨if_pos herr, herr⟩
  · exact .inr (if_neg herr)

theorem corrStep_registers (s : State) (thres : Word) : (s.corrStep thres).2.run.kcnt = s.run.kcnt
    ∧ (s.corrStep thres).2.run.nosig = s.run.nosig ∧ (s.corrStep thres).2.status = s.status := by
  obtain ⟨m, mv, mvPos, dc, ddf, b, e⟩ := corrStep_eq s thres
  rw [e]
  exact ⟨rfl, rfl, rfl⟩

/-- How one correlation step of the search ends: a header, or the search goes on. -/
theorem searchStep_cases (s : State) (thres : Word) (maxerr : Nat) :
    (∃ c, s.searchStep thres maxerr = (true, c.headerFound c.headCmp.1) ∧ SearchKept s c ∧ HeaderAt thres maxerr c)
      ∨ ∃ t, s.searchStep thres maxerr = (false, t) ∧ SearchKept s t ∧ t.run.nosig = s.run.nosig
        ∧ (s.status.det = .searching → t.status.det = .searching) := by
  have hclear : SearchKept s { s with run := { s.run with kcnt := 0#32 } } :=
    .of_flags s _ s.free s.status.locked s.status.det rfl rfl
  have hcorr := hclear.trans (.of_corrStep _ thres)
  obtain ⟨hkcnt, hnosig, hstatus⟩ := corrStep_registers { s with run := { s.run with kcnt := 0#32 } } thres
  unfold State.searchStep
  obtain ⟨⟨r, u⟩, hu⟩ : ∃ p, { s with run := { s.run with kcnt := 0#32 } }.corrStep thres = p := ⟨_, rfl⟩
  rw [hu] at hcorr hkcnt hnosig hstatus ⊢
  dsimp only
  split
  · rename_i hpeak
    obtain ⟨c, hc, hrun, ⟨hacc, herr⟩ | hrej⟩ := candidate_cases u maxerr
    · exact .inl ⟨c, hacc, hcorr.trans hc, by rw [hrun]; exact hkcnt, by rw [hrun]; exact hpeak.2, herr⟩
    · refine .inr ⟨_, hrej, (hcorr.trans hc).trans ?_, ?_, fun _ => rfl⟩
      · exact .of_flags c c.run _ c.status.locked .searching rfl rfl
      · change c.run.nosig = _
        rw [hrun]
        exact hnosig
  · exact .inr ⟨u, rfl, hcorr, hnosig, fun hd => by rw [hstatus, hd]⟩

/-- The same of a sample step that has been counted (rule R202). -/
theorem afterSample_cases (s : State) (thres : Word) (maxerr : Nat) :
    (∃ c, s.afterSample thres maxerr = (true, c.headerFound c.headCmp.1) ∧ SearchKept s c ∧ HeaderAt thres maxerr c)
      ∨ ∃ t, s.afterSample thres maxerr = (false, t) ∧ SearchKept s t ∧ t.run.nosig = s.run.nosig + 1#32
        ∧ (s.status.det = .searching → t.status.det = .searching) := by
  have hcount : SearchKept s s.countSample := .of_flags s _ s.free s.status.locked s.status.det rfl rfl
  unfold State.afterSample
  dsimp only
  split
  · rcases searchStep_cases s.countSample thres maxerr with ⟨c, hc, hkept, hat⟩ | ⟨t, ht, hkept, hnosig, hdet⟩
    · exact .inl ⟨c, hc, hcount.trans hkept, hat⟩
    · exact .inr ⟨t, ht, hcount.trans hkept, hnosig, hdet⟩
  · exact .inr ⟨_, rfl, hcount, rfl, fun hd => hd⟩

/-! ### The loop -/

/-- The ends of the search from `s` that no hardware reset brings about (rules R201, R202): a header, the end of the
stream, the loss of the signal. -/
inductive SearchEnd (thres : Word) (maxerr : Nat) (s : State) : CmdEnd → Prop where
  | found {c : State} (h : SearchKept s c) (hat : HeaderAt thres maxerr c) :
    SearchEnd thres maxerr s (.ret rcOk (c.headerFound c.headCmp.1))
  | eos {u : State} (h : SearchKept s u) (hdet : u.status.det = .searching) :
    SearchEnd thres maxerr s (.ret rcEndOfStream u.atEos)
  | lost {u : State} (h : SearchKept s u) (hlost : u.signalLost = true) :
    SearchEnd thres maxerr s (.ret rcSignalLost u.setLost)

theorem SearchEnd.after {thres : Word} {maxerr : Nat} {s u : State} {x : CmdEnd} (h : SearchEnd thres maxerr u x)
    (hk : SearchKept s u) : SearchEnd thres maxerr s x := by
  cases h with
  | found h hat => exact .found (hk.trans h) hat
  | eos h hdet => exact .eos (hk.trans h) hdet
  | lost h hlost => exact .lost (hk.trans h) hlost

/-- The search ends within its fuel: every iteration that goes on raises NOSIG, which stays below its limit (rules R201,
R298). -/
theorem searchLoop_ends (thres : Word) (maxerr : Nat) {fuel : Nat} {s : State} (hs : s.Underway)
    (hdet : s.status.det = .searching) (hlim : s.lossLimit < 2 ^ 32) (hfuel : s.lossLimit - s.run.nosig.toNat < fuel) :
    SearchEnd thres maxerr s (searchLoop thres maxerr fuel s) := by
  induction fuel generalizing s with
  | zero => exact absurd hfuel (Nat.not_lt_zero _)
  | succ fuel ih =>
    obtain ⟨t, ht, hmoment⟩ := hostMoment_done hs
    have hst := hmoment.search
    rw [searchLoop, ht]
    dsimp only
    split
    · exact .lost hst ‹_›
    · rename_i hsig
      have hbelow : t.run.nosig.toNat < t.lossLimit := by
        simp only [State.signalLost, Bool.or_eq_true, decide_eq_true_eq, not_or, not_le] at hsig
        exact hsig.2
      have htu := hst.underway hs
      have htdet : t.status.det = .searching := hmoment.det.trans hdet
      cases hd : demodStep t with
      | mk r u =>
        cases r with
        | none =>
          rw [demodStep_eos htu.eos hd]
          exact .eos hst htdet
        | some v =>
          have hsample := SearchKept.of_sample hd
          have hspec := demodStep_some hd
          dsimp only
          rcases afterSample_cases u thres maxerr with ⟨c, hc, hkept, hat⟩ | ⟨w, hw, hkept, hnosig, hwdet⟩
          · rw [hc]
            exact .found (hst.trans (hsample.trans hkept)) hat
          · rw [hw]
            have hsw := hst.trans (hsample.trans hkept)
            have hlimit {x y : State} (h : SearchKept x y) : y.lossLimit = x.lossLimit := by
              rw [State.lossLimit, h.inst, h.cfg, State.lossLimit]
            have hstep : w.run.nosig.toNat = s.run.nosig.toNat + 1 := by
              rw [hnosig, hspec.kept.nosig, hmoment.run, BitVec.toNat_add]
              rw [hmoment.run, hlimit hst] at hbelow
              exact Nat.mod_eq_of_lt (by simp; omega)
            rw [hmoment.run, hlimit hst] at hbelow
            refine (ih (hsw.underway hs) (hwdet ?_) ?_ ?_).after hsw
            · rw [hspec.status, htdet]
            · rwa [hlimit hsw]
            · rw [hlimit hsw]
              omega

/-! ### Verification -/

/-- `HeadCmp` counts the bits that do not match by the ordered sums of rule R198. -/
theorem headCmp_count (s : State) : s.headCmp.1 = BitVec.ofNat 32 s.mismatchCount := by
  have hbit (j : Nat) : s.headerMismatch j
      = ((fge (s.headerSum j) fzero ^^ flt s.run.mv fzero) != (s.readWord .hdr j).getLsbD 0) := by
    change decide ((fge (s.headerSum j) fzero ^^ flt s.run.mv fzero) ≠ (s.readWord .hdr j).getLsbD 0) = _
    rw [Bool.eq_iff_iff, decide_eq_true_eq, bne_iff_ne]
  exact congrArg (BitVec.ofNat 32) (List.countP_congr fun j _ => by rw [hbit])

theorem headCmp_toNat (s : State) : s.headCmp.1.toNat = s.mismatchCount := by
  have hle : s.mismatchCount ≤ s.cfg.hdrLen.toNat := List.countP_le_length.trans_eq List.length_range
  rw [headCmp_count, BitVec.toNat_ofNat, Nat.mod_eq_of_lt (by omega)]

/-! ### FIND_HDR -/

/-- FIND_HDR in READY with a legal threshold runs the search (rule R202). -/
theorem exec_findHdr_search {s : State} (hf : s.status.fault = false) (hr : s.status.session = .ready)
    (hnan : isNaN s.arg.r0 = false) (hneg : flt s.arg.r0 fzero = false) :
    exec .findHdr s = finishCommand (encode .findHdr) s.beginCommand
      (searchLoop s.arg.r0 s.arg.r1.toNat s.searchFuel s.beginCommand.startSearch) := by
  have hthres : badThreshold s.beginCommand.arg0F = false := by
    change (isNaN s.arg.r0 || flt s.arg.r0 fzero) = false
    rw [hnan, hneg]
    rfl
  change runCommand .findHdr findHdrBody s = _
  rw [runCommand_run .findHdr _ s hf rfl (by simp [legalIn, hr]), findHdrBody, hthres, if_neg (by decide),
    if_neg (by simp [hr])]
  rfl

theorem startSearch_kept (s : State) : SearchKept s s.startSearch :=
  .of_flags s _ s.free s.status.locked .searching rfl rfl

end Sys2Proof.Machine

namespace Sys2Proof.Scope

open Machine

/-- Settles O47: the search ends in one of three ways (`searchLoop_ends`), and what it leaves alone until then is
`SearchKept`. -/
theorem findHdrOutcomes : Obligations.FindHdrOutcomes := by
  intro s hf hr he hnan hneg hlim hn
  have hstart := startSearch_kept s.beginCommand
  have hs : s.beginCommand.Underway := ⟨rfl, he, hn⟩
  have hend := (searchLoop_ends s.arg.r0 s.arg.r1.toNat (hstart.underway hs) rfl hlim (Nat.lt_succ_self _)).after hstart
  rw [exec_findHdr_search hf hr hnan hneg]
  change SearchEnd s.arg.r0 s.arg.r1.toNat s.beginCommand (searchLoop _ _ s.searchFuel _) at hend
  generalize searchLoop s.arg.r0 s.arg.r1.toNat s.searchFuel s.beginCommand.startSearch = x at hend ⊢
  cases hend with
  | @found c h hat =>
    obtain ⟨hbusy, hidle⟩ := h.keptWhileBusy hf (t := (c.headerFound c.headCmp.1).endCommand rcOk)
      (.of_eq rfl rfl rfl)
    have hr3 : c.res.r3 = s.res.r3 := congrArg Quad.r3 h.res
    exact ⟨_, rfl, hbusy, hidle, h.sc, h.bg, hr3, fun id a hs hc => byte_congr (h.mem id hs hc) a,
      .inl ⟨rfl, rfl, h.session.trans hr, h.eos.trans he, h.lost, rfl, hat.kcnt, rfl, rfl, hat.peak, headCmp_count c,
        (headCmp_toNat c).symm.trans_le hat.errors⟩⟩
  | @eos u h hdet =>
    obtain ⟨hbusy, hidle⟩ := h.keptWhileBusy hf (t := u.atEos.endCommand rcEndOfStream) (.of_eq rfl rfl rfl)
    exact ⟨_, rfl, hbusy, hidle, h.sc, h.bg, congrArg Quad.r3 h.res, fun id a hs hc => byte_congr (h.mem id hs hc) a,
      .inr (.inl ⟨rfl, hdet, rfl, rfl, h.lost, h.res, congrArg (fun src => src.frames.length) h.source⟩)⟩
  | @lost u h hlost =>
    obtain ⟨hbusy, hidle⟩ := h.keptWhileBusy hf (t := u.setLost.endCommand rcSignalLost) (.of_eq rfl rfl rfl)
    refine ⟨_, rfl, hbusy, hidle, h.sc, h.bg, congrArg Quad.r3 h.res, fun id a hs hc => byte_congr (h.mem id hs hc) a,
      .inr (.inr ⟨rfl, rfl, rfl, rfl, h.eos.trans he, h.res, ?_⟩)⟩
    have hsig : (!u.active || decide (u.lossLimit ≤ u.run.nosig.toNat)) = true := hlost
    rw [State.lossLimit, h.inst, h.cfg] at hsig
    rwa [Bool.or_eq_true, decide_eq_true_eq, Bool.not_eq_true'] at hsig

end Sys2Proof.Scope
end

section
/-! SUPPORT. The first stride of FIND_HDR up to a moment in which the HOST acts: the sample steps before it do not look
at the HOST's moments (rules R16, R74, R202). -/

namespace Sys2Proof.Machine

/-! ### Stages that do not look at the HOST's moments -/

/-- A stage does the same whatever moments are to come, and leaves them alone. -/
def Blind {α : Type} (F : State → α × State) : Prop :=
  ∀ s d, F { s with during := d } = ((F s).1, { (F s).2 with during := d })

theorem Blind.eq {α : Type} {F : State → α × State} (h : Blind F) {s t : State} {a : α} (hs : F s = (a, t))
    (d : List (List HostEvent)) : F { s with during := d } = (a, { t with during := d }) := by
  rw [h, hs]

theorem pull_blind (n : Nat) : Blind (pull n) := by
  intro s d
  unfold pull
  by_cases he : s.status.eos = true
  · rw [if_pos he, if_pos he]
  · rw [if_neg he, if_neg he]
    by_cases hn : s.framesLeft n = true
    · rw [if_pos hn]
      exact if_pos hn
    · rw [if_neg hn]
      exact if_neg hn

theorem pullOne_blind : Blind pullOne := by
  intro s d
  unfold pullOne
  rw [pull_blind]
  obtain ⟨⟨r, t⟩, hp⟩ : ∃ p, pull 1 s = p := ⟨_, rfl⟩
  rw [hp]
  match r with
  | none | some [] | some (f :: _) => rfl

theorem iqdcUpdate_blind (s : State) (d : List (List HostEvent)) (x y : Word) :
    { s with during := d }.iqdcUpdate x y = { s.iqdcUpdate x y with during := d } := by
  unfold State.iqdcUpdate
  by_cases h : s.run.iqdcCnt + 1#32 = s.run.iqdcMaxCnt
  · rw [if_pos h, if_pos h]
    rfl
  · rw [if_neg h, if_neg h]

theorem readComplex_blind (f : Frame) : Blind (State.readComplex · f) :=
  fun s d => Prod.ext rfl (iqdcUpdate_blind s d _ _)

theorem rotateIn_blind (s : State) (d : List (List HostEvent)) (f : Frame) :
    { s with during := d }.rotateIn f = { s.rotateIn f with during := d } := by
  have hread : { s with during := d }.readComplex f = _ := readComplex_blind f s d
  rw [rotateIn_eq, rotateIn_eq, hread]
  rfl

theorem foldl_rotateIn_blind (fs : List Frame) (s : State) (d : List (List HostEvent)) :
    fs.foldl State.rotateIn { s with during := d } = { fs.foldl State.rotateIn s with during := d } := by
  induction fs generalizing s with
  | nil => rfl
  | cons f rest ih => rw [List.foldl_cons, rotateIn_blind, ih, List.foldl_cons]

theorem acquireDecim_blind : Blind acquireDecim := by
  intro s d
  unfold acquireDecim
  dsimp only
  rw [pull_blind]
  obtain ⟨⟨r, t⟩, hp⟩ : ∃ p, pull s.size.decm.toNat s = p := ⟨_, rfl⟩
  rw [hp]
  cases r with
  | none => rfl
  | some fs =>
    dsimp only
    rw [foldl_rotateIn_blind]
    rfl

theorem acquire_blind : Blind acquire := by
  intro s d
  unfold acquire
  by_cases hd : s.cfg.decim = true
  · rw [if_pos hd, if_pos hd, acquireDecim_blind]
  · rw [if_neg hd, if_neg hd, pullOne_blind]
    obtain ⟨⟨r, t⟩, hp⟩ : ∃ p, pullOne s = p := ⟨_, rfl⟩
    rw [hp]
    cases r with
    | none => rfl
    | some f =>
      have hread : { t with during := d }.readComplex f = _ := readComplex_blind f t d
      dsimp only
      rw [hread]

theorem ifStage_blind (z : Cx) : Blind (State.ifStage · z) := by
  intro s d
  dsimp only
  unfold State.ifStage
  by_cases hl : s.cfg.lpIq = true
  · rw [if_pos hl, if_pos hl]
    rfl
  · rw [if_neg hl, if_neg hl]

theorem fmStage_blind (v : Word) : Blind (State.fmStage · v) := by
  intro s d
  dsimp only
  unfold State.fmStage
  by_cases hl : s.cfg.lpFm = true
  · rw [if_pos hl, if_pos hl]
    rfl
  · rw [if_neg hl, if_neg hl]

theorem iqStages_blind (n : Word) (z : Cx) : Blind (State.iqStages · n z) := by
  intro s d
  dsimp only
  unfold State.iqStages
  obtain ⟨⟨y, t⟩, hp⟩ : ∃ p, s.ifStage (s.derotated n z) = p := ⟨_, rfl⟩
  have hif : { s with during := d }.ifStage ({ s with during := d }.derotated n z) = (y, { t with during := d }) :=
    (ifStage_blind (s.derotated n z)).eq hp d
  rw [hif, hp]
  exact fmStage_blind (t.discriminate y n).1
    ((t.discriminate y n).2.writeWords .dcbuf ((t.discriminate y n).2.circ n) [(t.discriminate y n).1]) d

theorem demodStep_blind : Blind demodStep := by
  intro s d
  unfold demodStep
  dsimp only
  by_cases hiq : s.cfg.iq = true
  · rw [if_pos hiq, if_pos hiq, acquire_blind]
    obtain ⟨⟨r, t⟩, hp⟩ : ∃ p, acquire s = p := ⟨_, rfl⟩
    rw [hp]
    cases r with
    | none => rfl
    | some z =>
      have hstages : { t with during := d }.iqStages s.run.sampleIn z = _ := iqStages_blind s.run.sampleIn z t d
      dsimp only
      rw [hstages]
      rfl
  · rw [if_neg hiq, if_neg hiq, pullOne_blind]
    obtain ⟨⟨r, t⟩, hp⟩ : ∃ p, pullOne s = p := ⟨_, rfl⟩
    rw [hp]
    cases r with
    | none => rfl
    | some f => rfl

theorem searchSteps_blind {n : Nat} {s u : State} (h : s.searchSteps n = some u) (d : List (List HostEvent)) :
    { s with during := d }.searchSteps n = some { u with during := d } := by
  induction n generalizing s with
  | zero =>
    cases h
    rfl
  | succ n ih =>
    unfold State.searchSteps at h ⊢
    have hsig : { s with during := d }.signalLost = s.signalLost := rfl
    rw [hsig]
    split at h
    · cases h
    · rename_i hlost
      rw [if_neg hlost, demodStep_blind]
      obtain ⟨⟨r, t⟩, hp⟩ : ∃ p, demodStep s = p := ⟨_, rfl⟩
      rw [hp] at h ⊢
      cases r with
      | none => cases h
      | some v => exact ih h

/-! ### The first stride -/

/-- One counted sample step (rules R201, R202). -/
theorem searchSteps_succ {n : Nat} {s u : State} (h : s.searchSteps (n + 1) = some u) :
    ∃ v t, s.signalLost = false ∧ demodStep s = (some v, t) ∧ t.countSample.searchSteps n = some u := by
  unfold State.searchSteps at h
  split at h
  · cases h
  · rename_i hlost
    split at h
    · rename_i v t hd
      exact ⟨v, t, by simpa using hlost, hd, h⟩
    · cases h

theorem signalLost_eq_false_iff (s : State) :
    s.signalLost = false ↔ s.active = true ∧ s.run.nosig.toNat < s.lossLimit := by
  simp [State.signalLost]

/-- Counted sample steps change no flag and keep NOSIG within its limit. -/
theorem searchSteps_spec {n : Nat} {s u : State} (hlim : s.lossLimit < 2 ^ 32) (h : s.searchSteps n = some u) :
    OnlySample s u ∧ u.status = s.status ∧ n ≤ s.lossLimit - s.run.nosig.toNat := by
  induction n generalizing s with
  | zero =>
    obtain rfl : s = u := Option.some.inj h
    exact ⟨.refl s, rfl, Nat.zero_le _⟩
  | succ n ih =>
    obtain ⟨v, t, hsig, hd, hrest⟩ := searchSteps_succ h
    have hspec := demodStep_some hd
    have hlimit : t.countSample.lossLimit = s.lossLimit := by
      change t.inst.tNosig * t.cfg.sr.toNat = _
      rw [hspec.only.inst, hspec.only.cfg]
      rfl
    obtain ⟨honly, hstatus, hn⟩ := ih (hlimit ▸ hlim) hrest
    have hbelow := ((signalLost_eq_false_iff s).1 hsig).2
    have hnosig : t.countSample.run.nosig.toNat = s.run.nosig.toNat + 1 := by
      change (t.run.nosig + 1#32).toNat = _
      rw [hspec.kept.nosig, BitVec.toNat_add]
      exact Nat.mod_eq_of_lt (by simp; omega)
    rw [hlimit, hnosig] at hn
    have hcount : OnlySample t t.countSample := rfl
    exact ⟨(hspec.only.trans hcount).trans honly, hstatus.trans hspec.status, by omega⟩

/-- Before K samples have been counted there is no correlation step (rule R202). -/
theorem afterSample_counts {s : State} (thres : Word) (maxerr : Nat) (h : s.run.kcnt.toNat + 1 < s.size.k.toNat) :
    s.afterSample thres maxerr = (false, s.countSample) ∧ s.countSample.run.kcnt.toNat = s.run.kcnt.toNat + 1 := by
  have hkcnt : s.countSample.run.kcnt.toNat = s.run.kcnt.toNat + 1 := by
    change (s.run.kcnt + 1#32).toNat = _
    rw [BitVec.toNat_add]
    exact Nat.mod_eq_of_lt (by simp; omega)
  refine ⟨if_neg ?_, hkcnt⟩
  rw [hkcnt]
  change ¬ s.size.k.toNat ≤ _
  omega

/-- The loop runs through the sample steps of an unfinished stride whose moments are empty. -/
theorem searchLoop_steps (thres : Word) (maxerr : Nat) {n fuel : Nat} {s u : State} {rest : List (List HostEvent)}
    (hd : s.during = List.replicate n [] ++ rest) (hu : s.searchSteps n = some u)
    (hk : s.run.kcnt.toNat + n < s.size.k.toNat) :
    searchLoop thres maxerr (fuel + n) s = searchLoop thres maxerr fuel { u with during := rest } := by
  induction n generalizing s u with
  | zero =>
    obtain rfl : s = u := Option.some.inj hu
    obtain rfl : s.during = rest := hd
    rfl
  | succ n ih =>
    obtain ⟨v, t, hsig, hstep, hrest⟩ := searchSteps_succ hu
    obtain ⟨later, hlater⟩ : ∃ later, later = List.replicate n [] ++ rest := ⟨_, rfl⟩
    have hd' : s.during = [] :: later := by rw [hd, hlater]; rfl
    have hspec := demodStep_some hstep
    have hsig' : { s with during := later }.signalLost = false := hsig
    have hstep' : demodStep { s with during := later } = (some v, { t with during := later }) :=
      demodStep_blind.eq hstep later
    have hk' : t.run.kcnt.toNat + (n + 1) < t.size.k.toNat := by rwa [hspec.kept.kcnt, hspec.only.size]
    have hnext : t.run.kcnt.toNat + 1 < t.size.k.toNat := by omega
    obtain ⟨hafter, hkcnt⟩ := afterSample_counts (s := { t with during := later }) thres maxerr hnext
    have hloop : searchLoop thres maxerr (fuel + n + 1) s
        = searchLoop thres maxerr (fuel + n) { t.countSample with during := later } := by
      rw [searchLoop, hostMoment_cons hd']
      simp only [duringEvents, hsig', hstep', hafter]
      rfl
    rw [← Nat.add_assoc, hloop]
    refine ih (u := { u with during := later }) hlater (searchSteps_blind hrest later) ?_
    change t.countSample.run.kcnt.toNat = t.run.kcnt.toNat + 1 at hkcnt
    change t.countSample.run.kcnt.toNat + n < t.size.k.toNat
    omega

/-! ### What the HOST does at the end of the steps -/

/-- A write of ACTIVE = 0 to CTRL while the command runs (rules R25, R74). -/
theorem duringEvents_ctrl {s : State} {addr : Nat} {v : Word} (hsel : s.selected addr = true)
    (hoff : offsetOf addr = 0x004) :
    duringEvents [.write 4 addr v] s = .done () { s with active := v.getLsbD 0 } := by
  change Flow.done () (s.busWrite 4 addr v) = _
  rw [State.busWrite, if_pos hsel, hoff, hostWrite_ctrl]

/-- The test before a sample step finds the signal lost (rules R201, R202). -/
theorem searchLoop_lost (thres : Word) (maxerr fuel : Nat) {s t : State} (hm : hostMoment s = .done () t)
    (hl : t.signalLost = true) : searchLoop thres maxerr (fuel + 1) s = .ret rcSignalLost t.setLost := by
  rw [searchLoop, hm]
  exact if_pos hl

theorem searchLoop_abandoned (thres : Word) (maxerr fuel : Nat) {s t : State} (hm : hostMoment s = .reset t) :
    searchLoop thres maxerr (fuel + 1) s = .abandoned t := by
  rw [searchLoop, hm]

end Sys2Proof.Machine

namespace Sys2Proof.Scope

open Machine

/-- Settles O49: the test comes before the first sample step; in the first stride the steps up to the moment are those
of `searchSteps` (`searchLoop_steps`), and the moment decides. -/
theorem signalLossAtOnce : Obligations.SignalLossAtOnce := by
  refine ⟨fun s hf hr hnan hneg hd hlost => ?atOnce, fun s u steps events later hf hr hnan hneg hlim hk hd hu => ?later⟩
  case atOnce =>
    have hsig : s.beginCommand.startSearch.signalLost = true := by
      change (!s.active || decide (s.inst.tNosig * s.cfg.sr.toNat ≤ s.run.nosig.toNat)) = true
      simpa using hlost
    have hmoment : hostMoment s.beginCommand.startSearch = .done () s.beginCommand.startSearch := hostMoment_idle hd
    rw [exec_findHdr_search hf hr hnan hneg, State.searchFuel, searchLoop_lost _ _ _ hmoment hsig]
    exact ⟨_, rfl, ⟨⟨rfl, rfl, rfl, rfl, rfl, rfl, rfl, rfl, rfl⟩, rfl, rfl, rfl⟩, rfl, rfl, rfl, rfl, rfl,
      fun _ _ => rfl⟩
  case later =>
    obtain ⟨honly, hstatus, hn⟩ := searchSteps_spec (s := s.beginCommand.startSearch) hlim hu
    obtain ⟨fuel, hfuel⟩ : ∃ fuel, s.searchFuel = fuel + 1 + steps := by
      change steps ≤ s.lossLimit - s.run.nosig.toNat at hn
      exact ⟨s.lossLimit - s.run.nosig.toNat - steps, by rw [State.searchFuel]; omega⟩
    have hkcnt : s.beginCommand.startSearch.run.kcnt.toNat + steps < s.size.k.toNat := by
      change 0 + steps < _
      omega
    have hbusy : u.status.busy = true := by
      rw [hstatus]
      rfl
    have hexec := exec_findHdr_search hf hr hnan hneg
    have hd' : s.beginCommand.startSearch.during = List.replicate steps [] ++ events :: later := hd
    rw [hfuel, searchLoop_steps s.arg.r0 s.arg.r1.toNat hd' hu hkcnt] at hexec
    have hmoment : hostMoment { u with during := events :: later } = duringEvents events { u with during := later } :=
      hostMoment_cons rfl
    refine ⟨fun addr v he hsel hoff hv => ?lost, fun before after he hbefore => ?reset⟩
    case lost =>
      have hsel' : { u with during := later }.selected addr = true := by
        rw [State.selected, honly.inst]
        exact hsel
      subst he
      rw [duringEvents_ctrl hsel' hoff, hv] at hmoment
      rw [searchLoop_lost _ _ _ hmoment rfl] at hexec
      refine ⟨_, hexec, rfl, rfl, ?_, rfl, honly.res, rfl, rfl, honly.cfg, honly.size, honly.fcause, honly.finfo,
        fun _ _ => rfl⟩
      simp only [endCommand_status, setLost_status, hstatus]
      rfl
    case reset =>
      obtain ⟨t, ht, hreset, hhost⟩ := duringEvents_reset (s := { u with during := later }) hbusy hbefore after
      subst he
      rw [ht] at hmoment
      rw [searchLoop_abandoned _ _ _ hmoment] at hexec
      obtain ⟨hreads, hst, hrun, hpos, hsource, hinst, hduring⟩ := hreset.shows
      exact ⟨t, hexec, hreads, hst, hrun, hpos, hsource.trans honly.source, hinst.trans honly.inst,
        by rw [hhost]; exact congrArg _ honly.host, hduring⟩

end Sys2Proof.Scope
end

section
/-! SUPPORT. The bit slicer when no hardware reset comes: what a bit leaves alone, where it leaves the symbol clock, and
the end of the stream; and a bit that a reset abandons at its first sample step (rules R211 to R219, R281). -/

namespace Sys2Proof.Machine

/-! ### What a bit leaves alone -/

/-- What RD_SBIT and RD_HBIT leave alone until they end: also the flags and registers of detector and search, and every
memory that a sample step does not write. -/
structure SliceKept (s t : State) : Prop extends Meanwhile s t where
  locked : t.status.locked = s.status.locked
  det : t.status.det = s.status.det
  mv : t.run.mv = s.run.mv
  mvPos : t.run.mvPos = s.run.mvPos
  dc : t.run.dc = s.run.dc
  df : t.run.df = s.run.df
  ddf : t.run.ddf = s.run.ddf
  nosig : t.run.nosig = s.run.nosig
  kcnt : t.run.kcnt = s.run.kcnt
  mem : ∀ id, sampleMem id = false → t.mem.get id = s.mem.get id

theorem SliceKept.trans {s t u : State} (h : SliceKept s t) (k : SliceKept t u) : SliceKept s u where
  toMeanwhile := h.toMeanwhile.trans k.toMeanwhile
  locked := k.locked.trans h.locked
  det := k.det.trans h.det
  mv := k.mv.trans h.mv
  mvPos := k.mvPos.trans h.mvPos
  dc := k.dc.trans h.dc
  df := k.df.trans h.df
  ddf := k.ddf.trans h.ddf
  nosig := k.nosig.trans h.nosig
  kcnt := k.kcnt.trans h.kcnt
  mem id hid := (k.mem id hid).trans (h.mem id hid)

/-- The slicer's own registers are BUFFERED, SC and BG (rules R211, R212). -/
theorem SliceKept.of_clock (s : State) (b c : Word) (g : BitVec 48) :
    SliceKept s { s with run := { s.run with buffered := b, sc := c, bg := g } } :=
  ⟨Works.meanwhile ⟨_, _, _, _, _, _, rfl⟩, rfl, rfl, rfl, rfl, rfl, rfl, rfl, rfl, rfl, fun _ _ => rfl⟩

theorem SliceKept.refl (s : State) : SliceKept s s := .of_clock s s.run.buffered s.run.sc s.run.bg

theorem Moment.slice {s t : State} (h : Moment s t) : SliceKept s t where
  toMeanwhile := h.toMeanwhile
  locked := h.locked
  det := h.det
  mv := by rw [h.run]
  mvPos := by rw [h.run]
  dc := by rw [h.run]
  df := by rw [h.run]
  ddf := by rw [h.run]
  nosig := by rw [h.run]
  kcnt := by rw [h.run]
  mem _ _ := by rw [h.mem]

theorem SliceKept.of_sample {s t : State} {v : Word} (h : demodStep s = (some v, t)) : SliceKept s t :=
  have hspec := demodStep_some h
  have hkept := hspec.kept
  ⟨hspec.works.meanwhile, by rw [hspec.status], by rw [hspec.status], hkept.mv, hkept.mvPos, hkept.dc, hkept.df,
    hkept.ddf, hkept.nosig, hkept.kcnt, fun _ hid => get_demodStep_some h hid⟩

/-- STATUS but FAULT is as it was. -/
theorem SliceKept.status {s t : State} (h : SliceKept s t) : t.status = { s.status with fault := t.status.fault } := by
  change t.status = ⟨s.status.busy, s.status.session, s.status.eos, s.status.lost, t.status.fault, s.status.locked,
    s.status.det⟩
  rw [← h.busy, ← h.session, ← h.eos, ← h.lost, ← h.locked, ← h.det]

/-! ### How a stage of a bit ends -/

/-- The ends of a stage from `s` that no hardware reset brings about: a result in a block with property `P`, or the end
of the stream. -/
inductive SliceEnd (s : State) (P : State → Prop) : Flow Word → Prop where
  | done {acc : Word} {t : State} (h : SliceKept s t) (hp : P t) : SliceEnd s P (.done acc t)
  | eos {u : State} (h : SliceKept s u) : SliceEnd s P (.eos u.atEos)

theorem SliceEnd.after {s u : State} {P : State → Prop} {x : Flow Word} (h : SliceEnd u P x) (hk : SliceKept s u) :
    SliceEnd s P x := by
  cases h with
  | done h hp => exact .done (hk.trans h) hp
  | eos h => exact .eos (hk.trans h)

theorem SliceEnd.bind {s : State} {P Q : State → Prop} {x : Flow Word} {k : Word → State → Flow Word}
    (hx : SliceEnd s P x) (hk : ∀ acc t, SliceKept s t → P t → SliceEnd t Q (k acc t)) : SliceEnd s Q (x.bind k) := by
  cases hx with
  | done h hp => exact (hk _ _ h hp).after h
  | eos h => exact .eos h

/-- The symbol clock: BG in units of 2^-16, and SC (rule R211). -/
structure ClockAt (bg sc : Nat) (s : State) : Prop where
  bg : s.run.bg.toNat = bg
  sc : s.run.sc.toNat = sc

theorem ClockAt.congr {bg sc : Nat} {s t : State} (h : ClockAt bg sc s) (hbg : t.run.bg = s.run.bg)
    (hsc : t.run.sc = s.run.sc) : ClockAt bg sc t := ⟨by rw [hbg, h.bg], by rw [hsc, h.sc]⟩

/-- A sample leaves the clock alone (rule R212). -/
theorem nextSample_ends (ofs : Word) {s : State} {bg sc : Nat} (hs : s.Underway) (hc : ClockAt bg sc s) :
    SliceEnd s (ClockAt bg sc) (nextSample ofs s) := by
  unfold nextSample
  split
  · exact .done (.of_clock s _ s.run.sc s.run.bg) ⟨hc.bg, hc.sc⟩
  · obtain ⟨t, ht, hmoment⟩ := hostMoment_done hs
    have hst := hmoment.slice
    rw [ht]
    cases hd : demodStep t with
    | mk r u =>
      simp only [Flow.bind, hd]
      cases r with
      | none =>
        rw [demodStep_eos (hst.underway hs).eos hd]
        exact .eos hst
      | some v =>
        have hkept := (demodStep_some hd).kept
        exact .done (hst.trans (.of_sample hd))
          (hc.congr (hkept.bg.trans (by rw [hmoment.run])) (hkept.sc.trans (by rw [hmoment.run])))

/-- The number of the first sample at or after a position of BG (rule R211). -/
def ceilBg (bg : Nat) : Nat := (bg + 65535) / 65536

/-- BG stands at `bg`, and SC, from `sc`, at the first sample at or after it. -/
def ClockReached (bg sc : Nat) : State → Prop := ClockAt bg (max sc (ceilBg bg))

/-- The loop over a symbol's samples ends with SC at the first sample at or after BG (rule R213). -/
theorem integrateLoop_ends (add : Bool) (g : BitFlags) (ofs : Word) (l mid2 : Int) {fuel : Nat} (acc : Word) {s : State}
    {bg sc : Nat} (hs : s.Underway) (hc : ClockAt bg sc s) (hroom : bg ≤ (2 ^ 32 - 1) * 65536)
    (hfuel : ceilBg bg - sc ≤ fuel) :
    SliceEnd s (ClockReached bg sc) (integrateLoop add g ofs l mid2 fuel acc s) := by
  unfold ClockReached
  induction fuel generalizing acc s sc with
  | zero =>
    rw [Nat.max_eq_left (by omega)]
    exact .done (.refl s) hc
  | succ fuel ih =>
    have hbelow : s.scBelowBg = decide (65536 * sc < bg) := by rw [State.scBelowBg, hc.bg, hc.sc]
    unfold integrateLoop
    rw [hbelow]
    by_cases hlt : 65536 * sc < bg
    · have hceil : sc < ceilBg bg := by
        unfold ceilBg
        omega
      rw [if_pos (decide_eq_true hlt)]
      refine (nextSample_ends ofs hs hc).bind fun idx t ht htc => ?_
      have hsc : t.run.sc.toNat + 1 < 2 ^ 32 := by
        rw [htc.sc]
        omega
      have htick : SliceKept t t.tickSc := .of_clock t t.run.buffered _ t.run.bg
      have htickc : ClockAt bg (sc + 1) t.tickSc := by
        refine ⟨htc.bg, ?_⟩
        change (t.run.sc + 1#32).toNat = _
        rw [BitVec.toNat_add, ← htc.sc]
        exact Nat.mod_eq_of_lt hsc
      dsimp only
      rw [if_pos hsc, show max sc (ceilBg bg) = max (sc + 1) (ceilBg bg) by omega]
      exact SliceEnd.after (ih _ ((ht.trans htick).underway hs) htickc (by omega)) htick
    · have hceil : ceilBg bg ≤ sc := by
        unfold ceilBg
        omega
      rw [if_neg (by simp [hlt]), Nat.max_eq_left hceil]
      exact .done (.refl s) hc

/-- One symbol (rule R213): BG moves on by its length. -/
theorem integrate_ends (add : Bool) (g : BitFlags) (ofs : Word) (l : Int) (acc : Word) {s : State} {bg sc : Nat}
    (hs : s.Underway) (hc : ClockAt bg sc s) (hroom : bg + s.cfg.sps.toNat ≤ (2 ^ 32 - 1) * 65536) :
    SliceEnd s (ClockReached (bg + s.cfg.sps.toNat) sc) (integrate add g ofs l acc s) := by
  unfold integrate
  dsimp only
  rw [hc.bg, if_pos (by omega)]
  have hmove : SliceKept s { s with run := { s.run with bg := BitVec.ofNat 48 (bg + s.cfg.sps.toNat) } } :=
    .of_clock s s.run.buffered s.run.sc _
  have hclock : ClockAt (bg + s.cfg.sps.toNat) sc
      { s with run := { s.run with bg := BitVec.ofNat 48 (bg + s.cfg.sps.toNat) } } :=
    ⟨(BitVec.toNat_ofNat ..).trans (Nat.mod_eq_of_lt (by omega)), hc.sc⟩
  refine (integrateLoop_ends add g ofs l _ acc (hmove.underway hs) hclock hroom ?_).after hmove
  rw [hc.sc, ceilBg]

/-- The symbols that a bit takes (rule R215). -/
def Cfg.bitSymbols (c : Cfg) : Nat := if c.symLen.toNat % 4 = 2 then 2 else 1

/-- `ReadBit` after the clock's restart (rule R215). -/
def readSymbols (g : BitFlags) (ofs : Word) (l : Int) (s : State) : Flow Word :=
  (if s.cfg.symbols = 2 then integrate false g ofs l fzero s else .done fzero s).bind (integrate true g ofs l)

theorem symbols_ends (g : BitFlags) (ofs : Word) (l : Int) {s : State} {bg sc : Nat} (hs : s.Underway)
    (hc : ClockAt bg sc s) (hroom : bg + s.cfg.bitSymbols * s.cfg.sps.toNat ≤ (2 ^ 32 - 1) * 65536) :
    SliceEnd s (ClockReached (bg + s.cfg.bitSymbols * s.cfg.sps.toNat) sc) (readSymbols g ofs l s) := by
  unfold Cfg.bitSymbols at hroom
  unfold Cfg.bitSymbols readSymbols
  by_cases htwo : s.cfg.symbols = 2
  · rw [if_pos htwo]
    rw [if_pos (show s.cfg.symLen.toNat % 4 = 2 from htwo)] at hroom ⊢
    refine (integrate_ends false g ofs l fzero hs hc (by omega)).bind fun acc t ht htc => ?_
    have hsecond := integrate_ends true g ofs l acc (ht.underway hs) htc (by rw [ht.cfg]; omega)
    rw [ht.cfg] at hsecond
    have hmono : ceilBg (bg + s.cfg.sps.toNat) ≤ ceilBg (bg + s.cfg.sps.toNat + s.cfg.sps.toNat) := by
      unfold ceilBg
      omega
    rwa [ClockReached, max_assoc, Nat.max_eq_right hmono, Nat.add_assoc, ← Nat.two_mul] at hsecond
  · rw [if_neg htwo]
    rw [if_neg (show ¬ s.cfg.symLen.toNat % 4 = 2 from htwo), Nat.one_mul] at hroom ⊢
    exact integrate_ends true g ofs l fzero hs hc hroom

/-- The block with the clock restarted if the flags ask for it (rules R211, R215). -/
def State.clockStart (s : State) (g : BitFlags) : State := if g.rst then s.restartClock else s

theorem clockStart_kept (s : State) (g : BitFlags) : SliceKept s (s.clockStart g) := by
  unfold State.clockStart
  split
  · exact .of_clock s s.run.buffered 0#32 0#48
  · exact .refl s

theorem clockStart_clock (s : State) (g : BitFlags) : ClockAt (if g.rst = true then 0 else s.run.bg.toNat)
    (if g.rst = true then 0 else s.run.sc.toNat) (s.clockStart g) := by
  unfold State.clockStart
  cases g.rst
  · exact ⟨rfl, rfl⟩
  · exact ⟨rfl, rfl⟩

theorem readBit_eq (g : BitFlags) (ofs : Word) (l : Int) (s : State) :
    readBit g ofs l s = readSymbols g ofs l (s.clockStart g) := rfl

theorem readBit_ends (g : BitFlags) (ofs : Word) (l : Int) {s : State} {bg sc : Nat} (hs : s.Underway)
    (hbg : bg = if g.rst = true then 0 else s.run.bg.toNat) (hsc : sc = if g.rst = true then 0 else s.run.sc.toNat)
    (hroom : bg + s.cfg.bitSymbols * s.cfg.sps.toNat ≤ (2 ^ 32 - 1) * 65536) :
    SliceEnd s (ClockReached (bg + s.cfg.bitSymbols * s.cfg.sps.toNat) sc) (readBit g ofs l s) := by
  have hkept := clockStart_kept s g
  have hclock := clockStart_clock s g
  rw [← hbg, ← hsc] at hclock
  have hend := (symbols_ends g ofs l (hkept.underway hs) hclock (by rwa [hkept.cfg])).after hkept
  rwa [← readBit_eq, hkept.cfg] at hend

/-! ### A reset before the first sample step -/

/-- A stage that a hardware reset in the first moment abandons (rule R281), `after` being the events that follow it. -/
def Abandons (s : State) (after : List HostEvent) (later : List (List HostEvent)) (x : Flow Word) : Prop :=
  ∃ t, x = .reset t ∧ AfterReset { s with during := later } t ∧ t.host = after ++ s.host

theorem Abandons.bind {s : State} {after : List HostEvent} {later : List (List HostEvent)} {x : Flow Word}
    (h : Abandons s after later x) (k : Word → State → Flow Word) : Abandons s after later (x.bind k) := by
  obtain ⟨t, rfl, hreset⟩ := h
  exact ⟨t, rfl, hreset⟩

section
variable {s : State} {before after : List HostEvent} {later : List (List HostEvent)} (hb : s.status.busy = true)
  (hd : s.during = (before ++ .hardReset :: after) :: later) (hn : HostEvent.hardReset ∉ before)
  (hbuf : s.run.buffered.toInt ≤ 0)
include hb hd hn hbuf

theorem nextSample_abandons (ofs : Word) : Abandons s after later (nextSample ofs s) := by
  obtain ⟨t, ht, hreset, hhost⟩ := duringEvents_reset (s := { s with during := later }) hb hn after
  have hempty : ¬ 0 < s32 s.run.buffered := not_lt.2 hbuf
  exact ⟨t, by rw [nextSample, if_neg hempty, hostMoment_cons hd, ht]; rfl, hreset, hhost⟩

theorem integrateLoop_abandons (add : Bool) (g : BitFlags) (ofs : Word) (l mid2 : Int) (fuel : Nat) (acc : Word)
    (hlt : s.scBelowBg = true) : Abandons s after later (integrateLoop add g ofs l mid2 (fuel + 1) acc s) := by
  rw [integrateLoop, if_pos hlt]
  exact (nextSample_abandons hb hd hn hbuf ofs).bind _

theorem integrate_abandons (add : Bool) (g : BitFlags) (ofs : Word) (l : Int) (acc : Word) {bg sc : Nat}
    (hc : ClockAt bg sc s) (hroom : bg + s.cfg.sps.toNat ≤ (2 ^ 32 - 1) * 65536)
    (hlt : 65536 * sc < bg + s.cfg.sps.toNat) : Abandons s after later (integrate add g ofs l acc s) := by
  have hbelow : { s with run := { s.run with bg := BitVec.ofNat 48 (bg + s.cfg.sps.toNat) } }.scBelowBg = true := by
    refine decide_eq_true ?_
    change 65536 * s.run.sc.toNat < (BitVec.ofNat 48 _).toNat
    rw [hc.sc, BitVec.toNat_ofNat, Nat.mod_eq_of_lt (by omega)]
    exact hlt
  obtain ⟨fuel, hfuel⟩ : ∃ fuel, (bg + s.cfg.sps.toNat + 65535) / 65536 - s.run.sc.toNat = fuel + 1 :=
    ⟨(bg + s.cfg.sps.toNat + 65535) / 65536 - sc - 1, by rw [hc.sc]; omega⟩
  unfold integrate
  dsimp only
  rw [hc.bg, if_pos (by omega), hfuel]
  exact integrateLoop_abandons (s := { s with run := { s.run with bg := BitVec.ofNat 48 (bg + s.cfg.sps.toNat) } })
    hb hd hn hbuf add g ofs l _ fuel acc hbelow

theorem symbols_abandons (g : BitFlags) (ofs : Word) (l : Int) {bg sc : Nat} (hc : ClockAt bg sc s)
    (hroom : bg + s.cfg.sps.toNat ≤ (2 ^ 32 - 1) * 65536) (hlt : 65536 * sc < bg + s.cfg.sps.toNat) :
    Abandons s after later (readSymbols g ofs l s) := by
  unfold readSymbols
  split
  · exact (integrate_abandons hb hd hn hbuf false g ofs l fzero hc hroom hlt).bind _
  · exact integrate_abandons hb hd hn hbuf true g ofs l fzero hc hroom hlt

theorem readBit_abandons (g : BitFlags) (ofs : Word) (l : Int) {bg sc : Nat}
    (hbg : bg = if g.rst = true then 0 else s.run.bg.toNat) (hsc : sc = if g.rst = true then 0 else s.run.sc.toNat)
    (hroom : bg + s.cfg.sps.toNat ≤ (2 ^ 32 - 1) * 65536) (hlt : 65536 * sc < bg + s.cfg.sps.toNat) :
    Abandons s after later (readBit g ofs l s) := by
  have hclock := clockStart_clock s g
  rw [← hbg, ← hsc] at hclock
  rw [readBit_eq]
  unfold State.clockStart at hclock ⊢
  cases hrst : g.rst with
  | false =>
    rw [hrst] at hclock
    exact symbols_abandons hb hd hn hbuf g ofs l hclock hroom hlt
  | true =>
    rw [hrst] at hclock
    exact symbols_abandons (s := s.restartClock) hb hd hn hbuf g ofs l hclock hroom hlt

end

/-! ### RD_SBIT and RD_HBIT -/

/-- The two commands read the same bit; RD_HBIT does not show its integral (rules R216, R217). -/
theorem exec_rdSbit_ready {s : State} (flags : Nibble) (hf : s.status.fault = false) (hr : s.status.session = .ready) :
    exec (.rdSbit flags) s = finishCommand (encode (.rdSbit flags)) s.beginCommand
      ((readBit (flagsOf flags) s.arg.r0 s.arg.r1.toInt s.beginCommand).finish
        (fun acc u => .ret rcOk (u.setRes01 (boolWord (hardBit acc)) acc))) := by
  change runCommand (.rdSbit flags) (rdSbitBody flags) s = _
  rw [runCommand_run (.rdSbit flags) _ s hf rfl (by simp [legalIn, hr]), rdSbitBody, if_neg (by simp [hr])]
  rfl

theorem exec_rdHbit_ready {s : State} (flags : Nibble) (hf : s.status.fault = false) (hr : s.status.session = .ready) :
    exec (.rdHbit flags) s = finishCommand (encode (.rdHbit flags)) s.beginCommand
      ((readBit (flagsOf flags) s.arg.r0 s.arg.r1.toInt s.beginCommand).finish
        (fun acc u => .ret rcOk (u.setRes0 (boolWord (hardBit acc))))) := by
  change runCommand (.rdHbit flags) (rdHbitBody flags) s = _
  rw [runCommand_run (.rdHbit flags) _ s hf rfl (by simp [legalIn, hr]), rdHbitBody, if_neg (by simp [hr])]
  rfl

end Sys2Proof.Machine

namespace Sys2Proof.Scope

open Machine

/-- Settles O50: without a reset a bit ends in one of two ways (`readBit_ends`), and what it leaves alone until then is
`SliceKept`; a reset before its first sample step abandons it (`readBit_abandons`). -/
theorem readBitCompletes : Obligations.ReadBitCompletes := by
  intro flags s bg sc n hf hr he hbg hsc hn hroom
  rw [exec_rdSbit_ready flags hf hr, exec_rdHbit_ready flags hf hr]
  refine ⟨fun hnoReset => ?answers, fun before after later hd hbefore hbuf hlt => ?abandoned⟩
  case answers =>
    have hs : s.beginCommand.Underway := ⟨rfl, he, hnoReset⟩
    subst hn
    have hend := readBit_ends (flagsOf flags) s.arg.r0 s.arg.r1.toInt hs hbg hsc hroom
    generalize readBit (flagsOf flags) s.arg.r0 s.arg.r1.toInt s.beginCommand = x at hend ⊢
    cases hend with
    | @done acc u h hclock =>
      obtain ⟨hbusy, hidle⟩ := h.keptWhileBusy hf (t := (u.setRes01 (boolWord (hardBit acc)) acc).endCommand rcOk)
        (.of_eq rfl rfl rfl)
      have hres : u.res = s.res := h.res
      refine ⟨_, _, rfl, rfl, hbusy, hidle, ?_, h.mv, h.mvPos, h.dc, h.df, h.ddf, h.nosig, h.kcnt,
        fun id a hid => byte_congr (h.mem id hid) a,
        .inl ⟨rfl, congrArg (fun st => { st with busy := false }) h.status, ?_, hclock.bg, hclock.sc⟩⟩
      · rw [← hres]
        rfl
      · rw [← hres]
        rfl
    | @eos u h =>
      obtain ⟨hbusy, hidle⟩ := h.keptWhileBusy hf (t := u.atEos.endCommand rcEndOfStream) (.of_eq rfl rfl rfl)
      have hres : u.res = s.res := h.res
      refine ⟨_, _, rfl, rfl, hbusy, hidle, ?_, h.mv, h.mvPos, h.dc, h.df, h.ddf, h.nosig, h.kcnt,
        fun id a hid => byte_congr (h.mem id hid) a,
        .inr ⟨rfl, hres, congrArg (fun st => { st with busy := false, eos := true, session := .ended }) h.status⟩⟩
      rw [← hres]
      rfl
  case abandoned =>
    have hsymbol : s.cfg.sps.toNat ≤ n * s.cfg.sps.toNat :=
      Nat.le_mul_of_pos_left _ (by rw [hn]; split <;> decide)
    obtain ⟨t, ht, hreset, hhost⟩ := readBit_abandons (s := s.beginCommand) rfl hd hbefore hbuf (flagsOf flags) s.arg.r0
      s.arg.r1.toInt hbg hsc (Nat.le_trans (Nat.add_le_add_left hsymbol bg) hroom) hlt
    obtain ⟨hreads, hst, hrun, hpos, hsource, hinst, hduring⟩ := hreset.shows
    rw [ht]
    exact ⟨t, rfl, rfl, hreads, hst, hrun, hpos, hsource, hinst, hhost, hduring⟩

end Sys2Proof.Scope
end

section
/-! SUPPORT. The fields of a command word, and which words decode (rules R86 to R92). -/

namespace Sys2Proof

open BitVec (eq_of_toNat_eq extractLsb'_append_eq_of_add_le extractLsb'_append_eq_of_le extractLsb'_eq_self
  extractLsb'_toNat)

/-! ### The fields of rule R86 -/

@[simp] theorem opcField_assemble (opc : BitVec 8) (wsel src dst : Nibble) :
    opcField (assemble opc wsel src dst) = opc := by
  rw [opcField, assemble, extractLsb'_append_eq_of_le (by decide), extractLsb'_eq_self]

@[simp] theorem reservedField_assemble (opc : BitVec 8) (wsel src dst : Nibble) :
    reservedField (assemble opc wsel src dst) = 0#12 := by
  rw [reservedField, assemble, extractLsb'_append_eq_of_add_le (by decide),
    extractLsb'_append_eq_of_le (by decide), extractLsb'_eq_self]

@[simp] theorem wselField_assemble (opc : BitVec 8) (wsel src dst : Nibble) :
    wselField (assemble opc wsel src dst) = wsel := by
  rw [wselField, assemble]
  iterate 2 rw [extractLsb'_append_eq_of_add_le (by decide)]
  rw [extractLsb'_append_eq_of_le (by decide), extractLsb'_eq_self]

@[simp] theorem srcField_assemble (opc : BitVec 8) (wsel src dst : Nibble) :
    srcField (assemble opc wsel src dst) = src := by
  rw [srcField, assemble]
  iterate 3 rw [extractLsb'_append_eq_of_add_le (by decide)]
  rw [extractLsb'_append_eq_of_le (by decide), extractLsb'_eq_self]

@[simp] theorem dstField_assemble (opc : BitVec 8) (wsel src dst : Nibble) :
    dstField (assemble opc wsel src dst) = dst := by
  rw [dstField, assemble]
  iterate 4 rw [extractLsb'_append_eq_of_add_le (by decide)]
  rw [extractLsb'_eq_self]

theorem opcField_toNat (w : Word) : (opcField w).toNat = w.toNat / 2 ^ 24 := by
  rw [opcField, extractLsb'_toNat, Nat.shiftRight_eq_div_pow, Nat.mod_eq_of_lt (by omega)]

/-- The bits below OPC, as a number. -/
theorem low_toNat (w : Word) : w.toNat % 2 ^ 24 = (reservedField w).toNat * 2 ^ 12 + (wselField w).toNat * 2 ^ 8
    + (srcField w).toNat * 2 ^ 4 + (dstField w).toNat := by
  simp only [reservedField, wselField, srcField, dstField, extractLsb'_toNat, Nat.shiftRight_eq_div_pow]
  omega

/-- A word is determined by its five fields. -/
theorem word_eq_of_fields {v w : Word} (hopc : opcField v = opcField w) (hreserved : reservedField v = reservedField w)
    (hwsel : wselField v = wselField w) (hsrc : srcField v = srcField w) (hdst : dstField v = dstField w) : v = w := by
  have hhigh : v.toNat / 2 ^ 24 = w.toNat / 2 ^ 24 := by rw [← opcField_toNat, hopc, opcField_toNat]
  have hlow : v.toNat % 2 ^ 24 = w.toNat % 2 ^ 24 := by rw [low_toNat, hreserved, hwsel, hsrc, hdst, ← low_toNat]
  exact eq_of_toNat_eq (by omega)

/-- A word with zeros in bits 23:12 is its other fields put together. -/
theorem assemble_fields {w : Word} (h : reservedField w = 0#12) :
    assemble (opcField w) (wselField w) (srcField w) (dstField w) = w :=
  word_eq_of_fields (opcField_assemble ..) ((reservedField_assemble ..).trans h.symm) (wselField_assemble ..)
    (srcField_assemble ..) (dstField_assemble ..)

/-! ### The bits that a format defines (rule R87) -/

theorem undefinedBitsClear_iff (i : Instr) (w : Word) : undefinedBitsClear i w = true ↔ reservedField w = 0#12
    ∧ (i.definedNibbles.1 = false → wselField w = 0#4) ∧ (i.definedNibbles.2.1 = false → srcField w = 0#4)
    ∧ (i.definedNibbles.2.2 = false → dstField w = 0#4) := by
  simp only [undefinedBitsClear, Bool.and_eq_true, Bool.or_eq_true, decide_eq_true_eq, and_assoc, Bool.eq_false_iff,
    or_iff_not_imp_left, ne_eq]

/-- A nibble of a word as far as the format defines it. -/
def definedPart (defined : Bool) (n : Nibble) : Nibble := if defined = true then n else 0#4

theorem definedPart_eq {defined : Bool} {n : Nibble} (h : defined = false → n = 0#4) : definedPart defined n = n := by
  cases defined with
  | false => exact (h rfl).symm
  | true => rfl

theorem definedPart_toNat (defined : Bool) (n : Nibble) :
    (definedPart defined n).toNat = if defined = true then n.toNat else 0 := apply_ite BitVec.toNat ..

/-- The undefined bits are 0 exactly if the bits below OPC are worth what the defined nibbles are. -/
theorem undefinedBitsClear_iff_low (i : Instr) (w : Word) : undefinedBitsClear i w = true ↔ w.toNat % 2 ^ 24
    = (definedPart i.definedNibbles.1 (wselField w)).toNat * 2 ^ 8
      + (definedPart i.definedNibbles.2.1 (srcField w)).toNat * 2 ^ 4
      + (definedPart i.definedNibbles.2.2 (dstField w)).toNat := by
  rw [low_toNat, undefinedBitsClear_iff]
  simp only [← BitVec.toNat_inj, BitVec.toNat_ofNat, definedPart_toNat]
  cases i.definedNibbles.1 <;> cases i.definedNibbles.2.1 <;> cases i.definedNibbles.2.2 <;> simp <;> omega

/-! ### Encoding -/

/-- The fields of a command's word stand for that command. -/
theorem candidate_encode (i : Instr) : candidate (opcField (encode i)) (wselField (encode i)) (srcField (encode i))
    (dstField (encode i)) = some i := by
  cases i <;> simp [encode, candidate]

/-- A command's word has zeros wherever its format defines no bit. -/
theorem undefinedBitsClear_encode (i : Instr) : undefinedBitsClear i (encode i) = true := by
  rw [undefinedBitsClear_iff]
  cases i <;> simp [encode, Instr.definedNibbles]

/-- The word of the command that an OPC and three nibbles stand for: that OPC, and of the nibbles those its format
defines. -/
theorem encode_of_candidate {opc : BitVec 8} {wsel src dst : Nibble} {i : Instr}
    (h : candidate opc wsel src dst = some i) : encode i = assemble opc (definedPart i.definedNibbles.1 wsel)
      (definedPart i.definedNibbles.2.1 src) (definedPart i.definedNibbles.2.2 dst) := by
  unfold candidate at h
  split at h
  case h_20 => cases h
  all_goals
    rename_i hopc
    cases h
    exact congrArg (assemble · _ _ _) (eq_of_toNat_eq hopc.symm)

/-! ### Decoding -/

/-- A word decodes to the command that its OPC and nibbles stand for, if it passes both checks (rules R91, R92). -/
theorem decode_eq_ok_iff (w : Word) (i : Instr) : decode w = .ok i ↔
    candidate (opcField w) (wselField w) (srcField w) (dstField w) = some i
      ∧ undefinedBitsClear i w = true ∧ i.wellFormed = true := by
  unfold decode
  cases candidate (opcField w) (wselField w) (srcField w) (dstField w) with
  | none => simp
  | some j =>
    constructor
    · intro h
      simp only at h
      split at h
      · cases h
      · split at h <;> cases h
        exact ⟨rfl, Bool.eq_true_of_not_eq_false ‹_›, Bool.eq_true_of_not_eq_false ‹_›⟩
    · rintro ⟨hj, hclear, hwf⟩
      cases hj
      simp [hclear, hwf]

/-- A command's word decodes to it, if its selectors are legal. -/
theorem decode_encode {i : Instr} (h : i.wellFormed = true) : decode (encode i) = .ok i :=
  (decode_eq_ok_iff ..).2 ⟨candidate_encode i, undefinedBitsClear_encode i, h⟩

/-- No bit of a word that decodes is ignored. -/
theorem encode_of_decode {w : Word} {i : Instr} (h : decode w = .ok i) : encode i = w := by
  obtain ⟨hc, hclear, -⟩ := (decode_eq_ok_iff w i).1 h
  obtain ⟨hreserved, hwsel, hsrc, hdst⟩ := (undefinedBitsClear_iff i w).1 hclear
  rw [encode_of_candidate hc, definedPart_eq hwsel, definedPart_eq hsrc, definedPart_eq hdst, assemble_fields hreserved]

/-- The list of legal words, OPC by OPC, is what the two checks allow (rules R87, R88, R91). -/
theorem decodes_iff_legalWord (w : Word) : (∃ i, decode w = .ok i) ↔ Machine.legalWord w = true := by
  have hlow := low_toNat w
  have hwsel := (wselField w).isLt
  have hsrc := (srcField w).isLt
  have hdst := (dstField w).isLt
  simp only [decode_eq_ok_iff, undefinedBitsClear_iff_low]
  unfold Machine.legalWord
  rw [← opcField_toNat]
  split
  case h_20 =>
    refine iff_of_false (fun ⟨i, hc, _⟩ => ?_) Bool.false_ne_true
    unfold candidate at hc
    split at hc
    case h_20 => cases hc
    all_goals contradiction
  all_goals
    rename_i hopc
    simp only [candidate, hopc, Option.some.injEq, exists_eq_left', definedPart_toNat, Instr.definedNibbles,
      Instr.wellFormed, bufferSelectorOk, windowSelectorOk, bankSelectorOk, Bool.false_eq_true, if_true, if_false,
      Bool.and_eq_true, decide_eq_true_eq, and_true]
    omega

end Sys2Proof
end

section
/-! SUPPORT. How a command ends that is refused before its own rule (rules R91, R92, R230, R254, R256). -/

namespace Sys2Proof.Machine

/-- Every command runs through the dispatch sequence of rule R230. -/
theorem exec_eq_runCommand (i : Instr) : ∃ body, ∀ s, exec i s = runCommand i body s := by
  cases i <;> exact ⟨_, fun _ => rfl⟩

/-- The first command fault since reset is the record of rule R256 and nothing else. -/
theorem commandFault_faultedWith (c : Cause) (w : Word) {s : State} (hf : s.status.fault = false) :
    FaultedWith c w s (s.beginCommand.commandFault c w) := by
  constructor
  case fcause => simp [hf]
  case finfo => simp [hf]
  case toBase => constructor <;> rfl
  case toDataKept => exact ⟨rfl, rfl, rfl, fun _ _ => rfl⟩
  all_goals rfl

theorem issue_illegal {w : Word} {s : State} (hf : s.status.fault = false) (hw : legalWord w = false) :
    issue w s = .next (s.beginCommand.commandFault .illegalCommand w) := by
  cases hd : decode w with
  | ok i => simp [(decodes_iff_legalWord w).1 ⟨i, hd⟩] at hw
  | error e => simp [issue, hd, runIllegal, hf]

/-- The state check of rule R230, for every command. -/
theorem exec_badState {i : Instr} {s : State} (hf : s.status.fault = false) (hw : i.wellFormed = true)
    (hl : legalIn i s.status.session = false) :
    exec i s = .next (s.beginCommand.commandFault .badState (encode i)) := by
  obtain ⟨body, hbody⟩ := exec_eq_runCommand i
  rw [hbody, runCommand_badState i body s hf hw hl]

/-! ### The session states of rule R91 -/

theorem legalIn_uninit {i : Instr} (hinit : i ≠ .init) (hdesign : ∀ b, i ≠ .lpDesign b) (hnop : i ≠ .nop)
    (hsreset : i ≠ .sreset) : legalIn i .uninit = false := by
  cases i with
  | nop => exact absurd rfl hnop
  | init => exact absurd rfl hinit
  | sreset => exact absurd rfl hsreset
  | lpDesign b => exact absurd rfl (hdesign b)
  | _ => rfl

theorem legalIn_opened {i : Instr} {u : Session} (hi : i = .init ∨ ∃ b, i = .lpDesign b) (hu : u ≠ .uninit) :
    legalIn i u = false := by
  obtain rfl | ⟨b, rfl⟩ := hi <;> exact decide_eq_false hu

end Sys2Proof.Machine
end

section
/-! SUPPORT. The statements about the encoding, and about the commands that dispatch refuses. -/

namespace Sys2Proof.Scope

open Machine

/-- Settles O1: the fields of a command's word pass every check of the decoder (`decode_encode`). -/
theorem decodeOfEncode : Obligations.DecodeOfEncode := fun _ h => decode_encode h

/-- Settles O2: the decoder takes the defined nibbles and finds every other bit 0 (`encode_of_decode`). -/
theorem encodeOfDecode : Obligations.EncodeOfDecode := fun _ _ h => ⟨wellFormed_of_decode h, encode_of_decode h⟩

/-- Settles O3, by the OPC (`decodes_iff_legalWord`). -/
theorem legalWordsDecode : Obligations.LegalWordsDecode := decodes_iff_legalWord

/-- Settles O6: the write starts dispatch (`step_issue`), which refuses the word (`issue_illegal`). -/
theorem illegalWordFaults : Obligations.IllegalWordFaults := by
  intro s u addr w hn hsel hoff hb hf hw
  have hfu : u.status.fault = false := by rw [hn.same.2, hf]
  exact ⟨_, (step_issue hn hsel hoff hb).trans (issue_illegal hfu hw), commandFault_faultedWith _ w hfu⟩

/-- Settles O8: the state check of dispatch fails (`exec_badState`). -/
theorem wrongSessionFaults : Obligations.WrongSessionFaults := by
  intro i s hw hf hstate
  have hl : legalIn i s.status.session = false := by
    rcases hstate with ⟨hi, hu⟩ | ⟨hinit, hdesign, hnop, hsreset, hu⟩
    · exact legalIn_opened hi hu
    · rw [hu]
      exact legalIn_uninit hinit hdesign hnop hsreset
  exact ⟨_, exec_badState hf hw hl, commandFault_faultedWith _ _ hf⟩

/-- Settles O4, word by word: the legal ones are the words of their commands, the other two set a bit that their format
leaves undefined. -/
theorem knownWordsDecode : Obligations.KnownWordsDecode :=
  ⟨decode_encode (i := .nop) rfl, decode_encode (i := .fftR 0#4) rfl, decode_encode (i := .fftC 1#4 2#4) rfl,
    decode_encode (i := .winC 2#4 3#4) rfl, decode_encode (i := .lpDesign 3#4) rfl, decode_encode (i := .rdCsample) rfl,
    decode_encode (i := .demodStep) rfl, decode_encode (i := .findHdr) rfl, decode_encode (i := .rdSbit 9#4) rfl,
    rfl, rfl⟩

end Sys2Proof.Scope
end

section
/-! SUPPORT. The transform engine entry by entry (rules R102, R103): the bit reversal, and one pass of butterflies. -/

namespace Sys2Proof.Machine

/-! ### Stages that work in place -/

theorem cxAt_set {b : List Cx} {i : Nat} (h : i < b.length) (v : Cx) (x : Nat) :
    cxAt (b.set i v) x = if x = i then v else cxAt b x := by
  rw [cxAt, List.getD_eq_getElem?_getD, List.getElem?_set]
  by_cases hx : x = i
  · simp [hx, h]
  · rw [if_neg (Ne.symm hx), if_neg hx, cxAt, List.getD_eq_getElem?_getD]

theorem list_eq_map_cxAt (b : List Cx) : b = (List.range b.length).map (cxAt b) := by
  apply List.ext_getElem (by simp)
  intro i h _
  simp [cxAt, List.getD_eq_getElem?_getD, h]

/-- Steps `0 .. m-1` over `n` entries, each entry in one step at most: step `a` turns the entries with key `a` into `g`
and leaves the others; `g` reads entries of its own key only. -/
structure InPlace (n m : Nat) (f : List Cx → Nat → List Cx) (key : Nat → Nat) (g : List Cx → Nat → Cx) : Prop where
  length : ∀ b a, (f b a).length = b.length
  reads : ∀ {b c : List Cx} {x : Nat}, x < n → (∀ y, y < n → key y = key x → cxAt b y = cxAt c y) → g b x = g c x
  step : ∀ {b : List Cx} {a x : Nat}, b.length = n → a < m → x < n →
    cxAt (f b a) x = if key x = a then g b x else cxAt b x

section
variable {n m : Nat} {f : List Cx → Nat → List Cx} {key : Nat → Nat} {g : List Cx → Nat → Cx} {b : List Cx}

/-- After some of the steps the entries with their keys are done and the others as at the start. -/
theorem InPlace.cxAt_foldl (h : InPlace n m f key g) (hb : b.length = n) {j x : Nat} (hj : j ≤ m) (hx : x < n) :
    cxAt ((List.range j).foldl f b) x = if key x < j then g b x else cxAt b x := by
  induction j generalizing x with
  | zero => simp
  | succ a ih =>
    have hlen : ((List.range a).foldl f b).length = n := (foldl_length_eq f h.length _ b).trans hb
    rw [List.range_succ, List.foldl_append, List.foldl_cons, List.foldl_nil, h.step hlen hj hx]
    by_cases hk : key x = a
    · have hsame : g ((List.range a).foldl f b) x = g b x :=
        h.reads hx fun y hy hyx => by rw [ih (by omega) hy, if_neg (by omega)]
      rw [if_pos hk, if_pos (by omega), hsame]
    · rw [if_neg hk, ih (by omega) hx]
      simp only [show key x < a + 1 ↔ key x < a by omega]

theorem InPlace.foldl_eq_map (h : InPlace n m f key g) (hb : b.length = n) (hkey : ∀ x, x < n → key x < m) :
    (List.range m).foldl f b = (List.range n).map (g b) := by
  rw [list_eq_map_cxAt ((List.range m).foldl f b), foldl_length_eq f h.length, hb]
  refine List.map_congr_left fun x hx => ?_
  have hx := List.mem_range.1 hx
  rw [h.cxAt_foldl hb le_rfl hx, if_pos (hkey x hx)]

end

/-! ### The bit reversal (rule R102) -/

theorem reverseBits_lt (k i : Nat) : reverseBits k i < 2 ^ k := by
  induction k generalizing i with
  | zero => exact Nat.one_pos
  | succ k ih =>
    have hlow := ih (i / 2)
    have hbit : i % 2 * 2 ^ k ≤ 1 * 2 ^ k := Nat.mul_le_mul_right _ (by omega)
    rw [reverseBits, Nat.pow_succ]
    omega

theorem testBit_reverseBits {k j : Nat} (i : Nat) (hj : j < k) : (reverseBits k i).testBit j = i.testBit (k - 1 - j) := by
  induction k generalizing i with
  | zero => cases hj
  | succ k ih =>
    rw [reverseBits, Nat.mul_comm, Nat.testBit_two_pow_mul_add _ (reverseBits_lt k (i / 2))]
    by_cases hlow : j < k
    · rw [if_pos hlow, ih (i / 2) hlow, show k + 1 - 1 - j = k - 1 - j + 1 by omega, Nat.testBit_succ]
    · obtain rfl : j = k := by omega
      simp [Nat.testBit_zero]

theorem reverseBits_reverseBits {k i : Nat} (hi : i < 2 ^ k) : reverseBits k (reverseBits k i) = i := by
  apply Nat.eq_of_testBit_eq
  intro j
  by_cases hj : j < k
  · rw [testBit_reverseBits _ hj, testBit_reverseBits _ (by omega), show k - 1 - (k - 1 - j) = j by omega]
  · have hle : 2 ^ k ≤ 2 ^ j := Nat.pow_le_pow_right Nat.two_pos (by omega)
    rw [Nat.testBit_lt_two_pow ((reverseBits_lt k _).trans_le hle), Nat.testBit_lt_two_pow (hi.trans_le hle)]

theorem cxAt_exchange {b : List Cx} {i j : Nat} (hi : i < b.length) (hj : j < b.length) (h : i < j) (x : Nat) :
    cxAt (exchange b i j) x = if x = j then cxAt b i else if x = i then cxAt b j else cxAt b x := by
  rw [exchange, if_pos h, cxAt_set (by rwa [List.length_set]), cxAt_set hi]

/-- The exchanges of an involution: the pair of `x` and its image is exchanged at the smaller of the two. -/
theorem inPlace_exchange {n : Nat} {f : Nat → Nat} (hlt : ∀ x, x < n → f x < n) (hinv : ∀ x, x < n → f (f x) = x) :
    InPlace n n (fun b i => exchange b i (f i)) (fun x => min x (f x)) (fun b x => cxAt b (f x)) where
  length b i := exchange_length b i (f i)
  reads {b c x} hx h := h (f x) (hlt x hx) (by rw [hinv x hx, min_comm])
  step {b a x} hb ha hx := by
    have hfx := hinv x hx
    have hfa := hinv a ha
    by_cases hswap : a < f a
    · rw [cxAt_exchange (by omega) (by rw [hb]; exact hlt a ha) hswap]
      by_cases hxa : x = a
      · subst hxa
        rw [if_neg (by omega), if_pos rfl, if_pos (by omega)]
      · by_cases hxfa : x = f a
        · subst hxfa
          rw [if_pos rfl, hfa, if_pos (by omega)]
        · have hfxa : f x ≠ a := fun e => hxfa (by rw [← e, hfx])
          rw [if_neg hxfa, if_neg hxa, if_neg (by omega)]
    · rw [exchange, if_neg hswap]
      split
      · next hkey =>
        have hfix : f x = x := by
          rcases min_choice x (f x) with hmin | hmin
          · have hxa : x = a := hmin.symm.trans hkey
            subst hxa
            omega
          · have hfxa : f x = a := hmin.symm.trans hkey
            rw [hfxa] at hfx hmin
            omega
        rw [hfix]
      · rfl

theorem reversalPermutes : ReversalPermutes := by
  refine ⟨fun k i => ⟨reverseBits_lt k i, fun j hj => testBit_reverseBits i hj⟩, fun k b hb => ?_⟩
  refine (inPlace_exchange (fun x _ => reverseBits_lt k x) (fun x hx => reverseBits_reverseBits hx)).foldl_eq_map hb ?_
  exact fun x hx => (min_le_left _ _).trans_lt hx

/-! ### One pass (rule R103) -/

/-- Entry `x` after the butterflies of half span `h`: the sum in the lower half of its span, the difference in the
upper. -/
def butterflyEntry (h : Nat) (w : Cx) (b : List Cx) (x : Nat) : Cx :=
  if x % (2 * h) < h then cadd (cxAt b x) (cmul (cxAt b (x + h)) w) else csub (cxAt b (x - h)) (cmul (cxAt b x) w)

section
variable {h : Nat}

/-- The two indices of a butterfly of half span `h`, by their span and their place in its halves. -/
theorem pair_iff {q r : Nat} (hr : r < h) (x : Nat) :
    x / (2 * h) = q ∧ x % h = r ↔ x = 2 * h * q + r ∨ x = 2 * h * q + r + h := by
  constructor
  · rintro ⟨rfl, rfl⟩
    have hspan := Nat.div_add_mod x (2 * h)
    have hlt := Nat.mod_lt x (show 0 < 2 * h by omega)
    have hmod : x % h = x % (2 * h) % h := (Nat.mod_mul_left_mod x 2 h).symm
    by_cases hlow : x % (2 * h) < h
    · rw [Nat.mod_eq_of_lt hlow] at hmod
      omega
    · rw [Nat.mod_eq_sub_mod (Nat.le_of_not_lt hlow), Nat.mod_eq_of_lt (a := x % (2 * h) - h) (by omega)] at hmod
      omega
  · have hmul : 2 * h * q + r = h * (2 * q) + r := by rw [Nat.mul_comm 2 h, Nat.mul_assoc]
    rintro (rfl | rfl)
    · rw [Nat.mul_add_div (by omega), Nat.div_eq_of_lt (by omega), hmul, Nat.mul_add_mod, Nat.mod_eq_of_lt hr]
      exact ⟨Nat.add_zero q, rfl⟩
    · rw [Nat.add_mod_right, Nat.add_assoc, Nat.mul_add_div (by omega), Nat.div_eq_of_lt (by omega), hmul,
        Nat.mul_add_mod, Nat.mod_eq_of_lt hr]
      exact ⟨Nat.add_zero q, rfl⟩

theorem butterflyEntry_lower (w : Cx) (b : List Cx) (q : Nat) {r : Nat} (hr : r < h) :
    butterflyEntry h w b (2 * h * q + r)
      = cadd (cxAt b (2 * h * q + r)) (cmul (cxAt b (2 * h * q + r + h)) w) := by
  rw [butterflyEntry, Nat.mul_add_mod, Nat.mod_eq_of_lt (by omega), if_pos hr]

theorem butterflyEntry_upper (w : Cx) (b : List Cx) (q : Nat) {r : Nat} (hr : r < h) :
    butterflyEntry h w b (2 * h * q + r + h)
      = csub (cxAt b (2 * h * q + r)) (cmul (cxAt b (2 * h * q + r + h)) w) := by
  rw [butterflyEntry, Nat.add_sub_cancel, Nat.add_assoc, Nat.mul_add_mod, Nat.mod_eq_of_lt (by omega),
    if_neg (by omega)]

theorem pair_lt {q r B : Nat} (hr : r < h) (hq : q < B) : 2 * h * q + r + h < 2 * h * B := by
  have hspan : 2 * h * (q + 1) ≤ 2 * h * B := Nat.mul_le_mul_left _ hq
  rw [Nat.mul_add_one] at hspan
  omega

/-- A butterfly changes the two entries of its pair. -/
theorem cxAt_butterfly {b : List Cx} {q r B : Nat} (w : Cx) (hb : b.length = 2 * h * B) (hr : r < h) (hq : q < B)
    (x : Nat) : cxAt (butterfly b (r + 2 * h * q) h w) x
      = if x / (2 * h) = q ∧ x % h = r then butterflyEntry h w b x else cxAt b x := by
  have hlt := pair_lt hr hq
  rw [Nat.add_comm r, butterfly, cxAt_set (by rw [List.length_set]; omega), cxAt_set (by omega)]
  simp only [pair_iff hr]
  by_cases hlow : x = 2 * h * q + r
  · rw [if_pos hlow, if_pos (.inl hlow), hlow, butterflyEntry_lower w b q hr]
  · by_cases hupp : x = 2 * h * q + r + h
    · rw [if_neg hlow, if_pos hupp, if_pos (.inr hupp), hupp, butterflyEntry_upper w b q hr]
    · rw [if_neg hlow, if_neg hupp, if_neg (not_or.2 ⟨hlow, hupp⟩)]

/-- A butterfly reads the two entries of its pair. -/
theorem butterflyEntry_congr {b c : List Cx} {x B : Nat} (w : Cx) (hh : 0 < h) (hx : x < 2 * h * B)
    (hbc : ∀ y, y < 2 * h * B → y / (2 * h) = x / (2 * h) → y % h = x % h → cxAt b y = cxAt c y) :
    butterflyEntry h w b x = butterflyEntry h w c x := by
  have hr := Nat.mod_lt x hh
  have hlt := pair_lt hr (Nat.div_lt_of_lt_mul hx)
  have hpair {y : Nat} (hy : y = 2 * h * (x / (2 * h)) + x % h ∨ y = 2 * h * (x / (2 * h)) + x % h + h) :
      cxAt b y = cxAt c y := by
    obtain ⟨hq, hm⟩ := (pair_iff hr y).2 hy
    exact hbc y (by omega) hq hm
  rcases (pair_iff hr x).1 ⟨rfl, rfl⟩ with hlow | hupp
  · rw [hlow, butterflyEntry_lower w b _ hr, butterflyEntry_lower w c _ hr, hpair (.inl rfl), hpair (.inr rfl)]
  · rw [hupp, butterflyEntry_upper w b _ hr, butterflyEntry_upper w c _ hr, hpair (.inl rfl), hpair (.inr rfl)]

/-- The butterflies of one twiddle, span after span. -/
theorem inPlace_butterfly (w : Cx) {j : Nat} (B : Nat) (hj : j < h) :
    InPlace (2 * h * B) B (fun b m => butterfly b (j + 2 * h * m) h w) (· / (2 * h))
      (fun b x => if x % h = j then butterflyEntry h w b x else cxAt b x) where
  length b m := butterfly_length b _ h w
  reads {b c x} hx hbc := by
    rw [butterflyEntry_congr w (Nat.zero_lt_of_lt hj) hx fun y hy hq _ => hbc y hy hq, hbc x hx rfl]
  step {b m x} hb hm _ := by
    rw [cxAt_butterfly w hb hj hm]
    by_cases hq : x / (2 * h) = m
    · simp [hq]
    · simp [hq]

/-- The butterflies of one pass, twiddle after twiddle. -/
theorem inPlace_butterfliesAt (tw : List Cx) (B : Nat) (hh : 0 < h) :
    InPlace (2 * h * B) h (butterfliesAt tw (2 * h * B) h) (· % h)
      (fun b x => butterflyEntry h (cxAt tw (x % h * B)) b x) where
  length b j := butterfliesAt_length tw _ h b j
  reads {b c x} hx hbc := butterflyEntry_congr _ hh hx fun y hy _ hm => hbc y hy hm
  step {b j x} hb hj hx := by
    rw [butterfliesAt, Nat.mul_div_cancel_left B (by omega),
      (inPlace_butterfly (cxAt tw (j * B)) B hj).cxAt_foldl hb le_rfl hx, if_pos (Nat.div_lt_of_lt_mul hx)]
    by_cases hm : x % h = j
    · rw [if_pos hm, if_pos hm, hm]
    · rw [if_neg hm, if_neg hm]

end

theorem fftPass_eq_map {tw b : List Cx} {p B : Nat} (hb : b.length = 2 * 2 ^ p * B) : fftPass tw (2 * 2 ^ p * B) b p
    = (List.range (2 * 2 ^ p * B)).map (fun x => butterflyEntry (2 ^ p) (cxAt tw (x % 2 ^ p * B)) b x) :=
  (inPlace_butterfliesAt tw B (Nat.two_pow_pos p)).foldl_eq_map hb fun x _ => Nat.mod_lt x (Nat.two_pow_pos p)

theorem passIsButterflies : PassIsButterflies := by
  intro tw b k p hp hb
  have hn : 2 ^ k = 2 * 2 ^ p * 2 ^ (k - 1 - p) := by
    rw [← Nat.pow_succ', ← Nat.pow_add, show p + 1 + (k - 1 - p) = k by omega]
  rw [hn, fftPass_eq_map (hb.trans hn)]
  simp only [butterflyEntry, cxAt, Nat.pow_succ']

/-- Four points: the reversal exchanges the middle two, and each pass has two butterflies (rules R102, R103). -/
theorem fftCore_four (w0 w1 a b c d : Cx) : fftCore [w0, w1] 2 4 [a, b, c, d] =
    [cadd (cadd a (cmul c w0)) (cmul (cadd b (cmul d w0)) w0),
      cadd (csub a (cmul c w0)) (cmul (csub b (cmul d w0)) w1),
      csub (cadd a (cmul c w0)) (cmul (cadd b (cmul d w0)) w0),
      csub (csub a (cmul c w0)) (cmul (csub b (cmul d w0)) w1)] := by
  have hrev : bitReversal 2 4 [a, b, c, d] = [a, c, b, d] := rfl
  have hfirst (b0 b1 b2 b3 : Cx) : fftPass [w0, w1] 4 [b0, b1, b2, b3] 0
      = [cadd b0 (cmul b1 w0), csub b0 (cmul b1 w0), cadd b2 (cmul b3 w0), csub b2 (cmul b3 w0)] := rfl
  have hsecond (b0 b1 b2 b3 : Cx) : fftPass [w0, w1] 4 [b0, b1, b2, b3] 1
      = [cadd b0 (cmul b2 w0), cadd b1 (cmul b3 w1), csub b0 (cmul b2 w0), csub b1 (cmul b3 w1)] := rfl
  change fftPass [w0, w1] 4 (fftPass [w0, w1] 4 (bitReversal 2 4 [a, b, c, d]) 0) 1 = _
  rw [hrev, hfirst, hsecond]

end Sys2Proof.Machine
end

section
/-! SUPPORT. The transform engine as a whole. -/

namespace Sys2Proof.Scope

open Machine

/-- Settles O33: four points pass by pass (`fftCore_four`); for every size the reversal and a pass are stages that work
in place (`reversalPermutes`, `passIsButterflies`); the order and the session's sizes stand in the definitions. -/
theorem fourPointTransform : Obligations.FourPointTransform :=
  ⟨fftCore_four, reversalPermutes, passIsButterflies, fun _ _ _ _ => rfl, fun _ _ => rfl⟩

end Sys2Proof.Scope
end

section
/-! SUPPORT. The commands of the transform engine (rules R104 to R110) and the argument checks (rule R254): how a command
ends whose own rule writes one memory, and how one that refuses its arguments. -/

namespace Sys2Proof.Machine

/-! ### Selectors -/

theorem bufferOf_isSome (sel : Nibble) : (bufferOf sel).isSome = bufferSelectorOk sel := by revert sel; decide

theorem windowOf_isSome (sel : Nibble) : (windowOf sel).isSome = windowSelectorOk sel := by revert sel; decide

theorem bankOf_isSome (sel : Nibble) : (bankOf sel).isSome = bankSelectorOk sel := by revert sel; decide

theorem bufferSelectorOk_of_some {sel : Nibble} {b : MemId} (h : bufferOf sel = some b) : bufferSelectorOk sel = true := by
  rw [← bufferOf_isSome, h, Option.isSome_some]

theorem bufferPairOk_of_some {dst src : Nibble} {d b : MemId} (hd : bufferOf dst = some d) (hb : bufferOf src = some b) :
    (bufferSelectorOk dst && bufferSelectorOk src) = true :=
  Bool.and_eq_true_iff.2 ⟨bufferSelectorOk_of_some hd, bufferSelectorOk_of_some hb⟩

theorem windowSelectorOk_of_some {sel : Nibble} {w : Window} (h : windowOf sel = some w) :
    windowSelectorOk sel = true := by
  rw [← windowOf_isSome, h, Option.isSome_some]

theorem bankSelectorOk_of_some {sel : Nibble} {b : Bank} (h : bankOf sel = some b) : bankSelectorOk sel = true := by
  rw [← bankOf_isSome, h, Option.isSome_some]

theorem bufferOf_of_lt {sel : Nibble} (h : sel.toNat < 3) : ∃ b, bufferOf sel = some b :=
  Option.isSome_iff_exists.1 ((bufferOf_isSome sel).trans (decide_eq_true h))

theorem bankOf_of_lt {sel : Nibble} (h : sel.toNat < 4) : ∃ b, bankOf sel = some b :=
  Option.isSome_iff_exists.1 ((bankOf_isSome sel).trans (decide_eq_true h))

theorem withBuffer_of_some {sel : Nibble} {b : MemId} (h : bufferOf sel = some b) (k : MemId → CmdEnd) :
    withBuffer sel k = k b := by
  rw [withBuffer, h]

theorem withWindow_of_some {sel : Nibble} {w : Window} (h : windowOf sel = some w) (k : Window → CmdEnd) :
    withWindow sel k = k w := by
  rw [withWindow, h]

theorem withBank_of_some {sel : Nibble} {b : Bank} (h : bankOf sel = some b) (k : Bank → CmdEnd) :
    withBank sel k = k b := by
  rw [withBank, h]

/-! ### A command whose own rule raises a fault -/

/-- Dispatch lets the command run its own rule (rule R230 steps 1 to 3). -/
structure State.Admits (s : State) (i : Instr) : Prop where
  fault : s.status.fault = false
  wellFormed : i.wellFormed = true
  legal : legalIn i s.status.session = true

theorem State.Admits.run {s : State} {i : Instr} (h : s.Admits i) (body : State → CmdEnd) :
    runCommand i body s = finishCommand (encode i) s.beginCommand (body s.beginCommand) :=
  runCommand_run i body s h.fault h.wellFormed h.legal

theorem State.Admits.raises {s : State} {i : Instr} {body : State → CmdEnd} {c : Cause} (h : s.Admits i)
    (hbody : body s.beginCommand = .raise c) : ∃ t, runCommand i body s = .next t ∧ FaultedWith c (encode i) s t :=
  ⟨_, by rw [h.run, hbody, finishCommand_raise], commandFault_faultedWith c (encode i) h.fault⟩

/-- FFT_R with a length above N (rule R104). -/
theorem fftRBody_tooLong {dst : Nibble} {d : MemId} {t : State} (hd : bufferOf dst = some d)
    (h : t.nSize < t.arg0Nat) : fftRBody dst t = .raise .badArgument := by
  rw [fftRBody, withBuffer_of_some hd, if_pos h]

/-- FFT_C with a length above N (rule R105). -/
theorem fftCBody_tooLong {dst src : Nibble} {d b : MemId} {t : State} (hd : bufferOf dst = some d)
    (hb : bufferOf src = some b) (h : t.nSize < t.arg0Nat) : fftCBody dst src t = .raise .badArgument := by
  rw [fftCBody, withBuffer_of_some hd, withBuffer_of_some hb, if_pos h]

theorem cutoffOk_eq_false {f : Word} (h : isNaN f = true ∨ fle f fzero = true ∨ fgt f fhalf = true) :
    cutoffOk f = false := by
  rcases h with hnan | hzero | hhalf
  · simp [cutoffOk, hnan]
  · have hle : forder f ≤ forder fzero := by
      simp only [fle, Bool.and_eq_true, decide_eq_true_eq] at hzero
      exact hzero.2
    simp [cutoffOk, flt, hle]
  · simp [cutoffOk, hhalf]

/-- LP_DESIGN with a cutoff outside (0, 1/2] (rule R122). -/
theorem lpDesignBody_badCutoff {bank : Nibble} {b : Bank} {t : State} (hb : bankOf bank = some b)
    (h : cutoffOk t.arg0F = false) : lpDesignBody bank t = .raise .badArgument := by
  rw [lpDesignBody, withBank_of_some hb, if_pos h]

/-- LP_APPLY on a bank without coefficients (rule R127). -/
theorem lpApplyBody_noTaps {bank : Nibble} {b : Bank} {t : State} (hb : bankOf bank = some b)
    (h : t.size.taps b = 0) : lpApplyBody bank t = .raise .badArgument := by
  rw [lpApplyBody, withBank_of_some hb, if_pos h]

theorem badThreshold_iff (thres : Word) :
    badThreshold thres = true ↔ isNaN thres = true ∨ flt thres fzero = true := Bool.or_eq_true_iff

/-- CORR_STEP with a threshold that no command accepts (rule R186). -/
theorem corrStepBody_badThreshold {t : State} (h : badThreshold t.arg0F = true) :
    corrStepBody t = .raise .badArgument := if_pos h

/-- FIND_HDR with a threshold that no command accepts (rule R202). -/
theorem findHdrBody_badThreshold {t : State} (h : badThreshold t.arg0F = true) :
    findHdrBody t = .raise .badArgument := if_pos h

/-- RD_CSAMPLE on a mono stream (rule R147). -/
theorem rdCsampleBody_mono {t : State} (h : t.cfg.stereo = false) : rdCsampleBody t = .raise .badState := if_pos h

/-! ### A command whose own rule writes one memory -/

theorem writeWords_completed (s : State) (m : MemId) (i : Nat) (ws : List Word) :
    Completed 0#32 s ((s.beginCommand.writeWords m i ws).endCommand rcOk) := by
  constructor
  case toKept =>
    constructor
    case toBase => constructor <;> rfl
    all_goals rfl
  all_goals rfl

theorem writeWords_writesOnly (s : State) (m : MemId) (i : Nat) (ws : List Word) :
    WritesOnly s ((s.beginCommand.writeWords m i ws).endCommand rcOk) m i ws.length where
  res := rfl
  run := rfl
  srcPos := rfl
  bytes id a h := State.byte_writeWords s.beginCommand m id i ws a h

/-- A command that writes `n` words of a memory from its start. -/
theorem State.Admits.writesWords {s : State} {i : Instr} {body : State → CmdEnd} {m : MemId} {n : Nat} {ws : List Word}
    (h : s.Admits i) (hbody : body s.beginCommand = .ret rcOk (s.beginCommand.writeWords m 0 ws))
    (hlen : ws.length = n) :
    ∃ t, runCommand i body s = .next t ∧ Completed 0#32 s t ∧ WritesOnly s t m 0 n
      ∧ ∀ k, k < n → t.readWord m k = ws.getD k 0#32 := by
  refine ⟨_, by rw [h.run, hbody, finishCommand_ret], writeWords_completed s m 0 ws, ?_, fun k hk => ?_⟩
  · exact hlen ▸ writeWords_writesOnly s m 0 ws
  · exact (State.readWord_writeWords s.beginCommand m m 0 k ws).trans (if_pos ⟨rfl, Nat.zero_le k, by omega⟩)

/-- A command that writes `n` complex entries of a memory from its start. -/
theorem State.Admits.writesCxs {s : State} {i : Instr} {body : State → CmdEnd} {m : MemId} {n : Nat} {cs : List Cx}
    (h : s.Admits i) (hbody : body s.beginCommand = .ret rcOk (s.beginCommand.writeCxs m 0 cs)) (hlen : cs.length = n) :
    ∃ t, runCommand i body s = .next t ∧ Completed 0#32 s t ∧ WritesOnly s t m 0 (2 * n)
      ∧ ∀ k, k < n → t.readCx m k = cs.getD k czero := by
  refine ⟨(s.beginCommand.writeCxs m 0 cs).endCommand rcOk, by rw [h.run, hbody, finishCommand_ret],
    writeWords_completed s m 0 (cs.flatMap Cx.words), ?_, fun k hk => ?_⟩
  · rw [← hlen, ← flatMap_words_length cs]
    exact writeWords_writesOnly s m 0 _
  · exact (State.readCx_writeCxs s.beginCommand m m 0 k cs).trans (if_pos ⟨rfl, Nat.zero_le k, by omega⟩)

/-! ### What the commands of the transform engine write -/

section
variable {dst src wsel : Nibble} {d b : MemId} {w : Window} (t : State)

theorem fftRBody_eq (hd : bufferOf dst = some d) (h : t.arg0Nat ≤ t.nSize) :
    fftRBody dst t = .ret rcOk (t.writeCxs d 0 (t.transform (t.paddedFrame t.arg0Nat))) := by
  rw [fftRBody, withBuffer_of_some hd, if_neg (Nat.not_lt.2 h), State.forwardReal]

theorem fftCBody_eq (hd : bufferOf dst = some d) (hb : bufferOf src = some b) (h : t.arg0Nat ≤ t.nSize) :
    fftCBody dst src t = .ret rcOk (t.writeCxs d 0 (t.transform (t.paddedBuffer b t.arg0Nat))) := by
  rw [fftCBody, withBuffer_of_some hd, withBuffer_of_some hb, if_neg (Nat.not_lt.2 h)]

theorem ifftNBody_eq (hd : bufferOf dst = some d) (hb : bufferOf src = some b) :
    ifftNBody dst src t = .ret rcOk (t.writeCxs d 0 (t.transform ((t.readCxs b t.nSize).map conj))) := by
  rw [ifftNBody, withBuffer_of_some hd, withBuffer_of_some hb, State.inverse]

theorem winRBody_eq (hw : windowOf wsel = some w) : winRBody wsel t
    = .ret rcOk (t.writeWords .xn 0 (List.zipWith fmul (t.readReals .xn t.nSize) (t.windowRow w))) := by
  rw [winRBody, withWindow_of_some hw]

theorem winCBody_eq (hd : bufferOf dst = some d) (hw : windowOf wsel = some w) : winCBody dst wsel t
    = .ret rcOk (t.writeCxs d 0 (List.zipWith cscale (t.readCxs d t.nSize) (t.windowRow w))) := by
  rw [winCBody, withBuffer_of_some hd, withWindow_of_some hw]

theorem cmulBody_eq (hd : bufferOf dst = some d) (hb : bufferOf src = some b) : cmulBody dst src t
    = .ret rcOk (t.writeCxs d 0 (List.zipWith cmul (t.readCxs b t.nSize) (t.readCxs .fm t.nSize))) := by
  rw [cmulBody, withBuffer_of_some hd, withBuffer_of_some hb, State.spectrumProduct]

end

theorem length_zipWith_range {α β γ : Type} (f : α → β → γ) (a : Nat → α) (b : Nat → β) (n : Nat) :
    (List.zipWith f ((List.range n).map a) ((List.range n).map b)).length = n := by
  simp

/-- An entry of two tables joined entry by entry. -/
theorem getD_zipWith_range {α β γ : Type} (f : α → β → γ) (a : Nat → α) (b : Nat → β) (z : γ) {n k : Nat} (hk : k < n) :
    (List.zipWith f ((List.range n).map a) ((List.range n).map b)).getD k z = f (a k) (b k) := by
  simp [List.getD_eq_getElem?_getD, hk]

end Sys2Proof.Machine
end

section
/-! SUPPORT. The statements about the transform engine's commands and about argument checks. -/

namespace Sys2Proof.Scope

open Machine

/-- Settles O9: each command's own rule raises the fault before anything has changed (`State.Admits.raises`). -/
theorem badArgumentsFault : Obligations.BadArgumentsFault := by
  intro s hf
  refine ⟨fun hu hlong dst src hdst hsrc => ?_, fun hu hcut bank hbank => ?_, fun hu bank b hb htaps => ?_,
    fun hu hthres => ?_, fun hu hmono => ?_⟩
  · obtain ⟨d, hd⟩ := bufferOf_of_lt hdst
    obtain ⟨b, hb⟩ := bufferOf_of_lt hsrc
    exact ⟨State.Admits.raises ⟨hf, bufferSelectorOk_of_some hd, decide_eq_true hu⟩ (fftRBody_tooLong hd hlong),
      State.Admits.raises ⟨hf, bufferPairOk_of_some hd hb, decide_eq_true hu⟩ (fftCBody_tooLong hd hb hlong)⟩
  · obtain ⟨b, hb⟩ := bankOf_of_lt hbank
    exact State.Admits.raises ⟨hf, bankSelectorOk_of_some hb, decide_eq_true hu⟩
      (lpDesignBody_badCutoff hb (cutoffOk_eq_false hcut))
  · exact State.Admits.raises ⟨hf, bankSelectorOk_of_some hb, decide_eq_true hu⟩ (lpApplyBody_noTaps hb htaps)
  · have hbad := (badThreshold_iff _).2 hthres
    exact ⟨State.Admits.raises ⟨hf, rfl, decide_eq_true hu⟩ (corrStepBody_badThreshold hbad),
      State.Admits.raises ⟨hf, rfl, decide_eq_true hu⟩ (findHdrBody_badThreshold hbad)⟩
  · exact State.Admits.raises ⟨hf, rfl, decide_eq_true hu⟩ (rdCsampleBody_mono hmono)

/-- Settles O34: the transform of the padded frame (`fftRBody_eq`) is written and nothing else. -/
theorem fftRealCompletes : Obligations.FftRealCompletes := by
  intro dst d s hd hf hu hlen
  have hrun : s.Admits (.fftR dst) := ⟨hf, bufferSelectorOk_of_some hd, decide_eq_true hu⟩
  exact hrun.writesCxs (fftRBody_eq s.beginCommand hd hlen) (by simp)

/-- Settles O35: the source is read whole before the destination is written, so they may be one (`fftCBody_eq`). -/
theorem fftComplexCompletes : Obligations.FftComplexCompletes := by
  intro dst src d b s hd hb hf hu hlen
  have hrun : s.Admits (.fftC dst src) := ⟨hf, bufferPairOk_of_some hd hb, decide_eq_true hu⟩
  exact hrun.writesCxs (fftCBody_eq s.beginCommand hd hb hlen) (by simp)

/-- Settles O36: the transform of the conjugates (`ifftNBody_eq`) is written and nothing else. -/
theorem inverseCompletes : Obligations.InverseCompletes := by
  intro dst src d b s hd hb hf hu
  have hrun : s.Admits (.ifftN dst src) := ⟨hf, bufferPairOk_of_some hd hb, decide_eq_true hu⟩
  exact hrun.writesCxs (ifftNBody_eq s.beginCommand hd hb) (by simp [State.readCxs])

/-- Settles O37: the products with the window's row (`winRBody_eq`) are written over XN and nothing else. -/
theorem windowRealCompletes : Obligations.WindowRealCompletes := by
  intro wsel w s hw hf hu
  have hrun : s.Admits (.winR wsel) := ⟨hf, windowSelectorOk_of_some hw, decide_eq_true hu⟩
  obtain ⟨t, hexec, hdone, honly, hread⟩ :=
    hrun.writesWords (winRBody_eq s.beginCommand hw) (length_zipWith_range _ _ _ _)
  exact ⟨t, hexec, hdone, honly, fun k hk => (hread k hk).trans (getD_zipWith_range _ _ _ _ hk)⟩

/-- Settles O38: the products with the window's row (`winCBody_eq`) are written over the buffer and nothing else. -/
theorem windowComplexCompletes : Obligations.WindowComplexCompletes := by
  intro dst wsel d w s hd hw hf hu
  have hrun : s.Admits (.winC dst wsel) :=
    ⟨hf, Bool.and_eq_true_iff.2 ⟨bufferSelectorOk_of_some hd, windowSelectorOk_of_some hw⟩, decide_eq_true hu⟩
  obtain ⟨t, hexec, hdone, honly, hread⟩ :=
    hrun.writesCxs (winCBody_eq s.beginCommand hd hw) (length_zipWith_range _ _ _ _)
  exact ⟨t, hexec, hdone, honly, fun k hk => (hread k hk).trans (getD_zipWith_range _ _ _ _ hk)⟩

/-- Settles O39: the products are formed from the old entries (`cmulBody_eq`), so the destination may be the source. -/
theorem spectrumProductCompletes : Obligations.SpectrumProductCompletes := by
  intro dst src d b s hd hb hf hu
  have hrun : s.Admits (.cmul dst src) := ⟨hf, bufferPairOk_of_some hd hb, decide_eq_true hu⟩
  obtain ⟨t, hexec, hdone, honly, hread⟩ :=
    hrun.writesCxs (cmulBody_eq s.beginCommand hd hb) (length_zipWith_range _ _ _ _)
  exact ⟨t, hexec, hdone, honly, fun k hk => (hread k hk).trans (getD_zipWith_range _ _ _ _ hk)⟩

end Sys2Proof.Scope
end

section
/-! SUPPORT. The windowed-sinc low-pass (rules R121 to R127): the coefficients of a design, what LP_DESIGN writes, and the
output of a bank as the ordered sum of rule R125. -/

namespace Sys2Proof.Machine

/-! ### The coefficients (rules R121, R123) -/

/-- A coefficient, branch by branch: one tap is 1, the cutoff 1/2 passes the centre alone, and else the entry of the half,
counted from the nearer end. -/
theorem lowpassCoefs_getD (f : Word) {taps n : Nat} (hn : n < taps) : (lowpassCoefs f taps).getD n fzero =
    if taps = 1 then fone
    else if f = fhalf then if n = (taps - 1) / 2 then fone else fzero
    else (lowpassCoefHalf f taps).getD (min n (taps - 1 - n)) fzero := by
  rw [List.getD_eq_getElem?_getD, lowpassCoefs]
  split
  · next hone =>
    obtain rfl : n = 0 := by omega
    rfl
  · split <;> simp [hn]

theorem lowpassCoefs_length (f : Word) (taps : Nat) : (lowpassCoefs f taps).length = taps := by
  rw [lowpassCoefs]
  split
  · next hone => exact hone.symm
  · split <;> simp

theorem lowpassCoefs_symmetric (f : Word) {taps n : Nat} (hodd : taps % 2 = 1) (hn : n < taps) :
    (lowpassCoefs f taps).getD (taps - 1 - n) fzero = (lowpassCoefs f taps).getD n fzero := by
  have hcentre : taps - 1 - n = (taps - 1) / 2 ↔ n = (taps - 1) / 2 := by omega
  have hhalf : min (taps - 1 - n) (taps - 1 - (taps - 1 - n)) = min n (taps - 1 - n) := by omega
  rw [lowpassCoefs_getD f hn, lowpassCoefs_getD f (by omega), hhalf]
  simp only [hcentre]

theorem lowpassCoefs_one (f : Word) : (lowpassCoefs f 1).getD 0 fzero = fone := by
  rw [lowpassCoefs_getD f Nat.one_pos, if_pos rfl]

/-- With the cutoff 1/2 the centre alone passes; a single tap is its own centre. -/
theorem lowpassCoefs_half {taps n : Nat} (hn : n < taps) :
    (lowpassCoefs fhalf taps).getD n fzero = if n = (taps - 1) / 2 then fone else fzero := by
  rw [lowpassCoefs_getD fhalf hn, if_pos rfl]
  split
  · next hone => rw [if_pos (by omega)]
  · rfl

/-! ### The bank of a design (rule R122) -/

theorem oddTaps_odd (n : Nat) : oddTaps n % 2 = 1 := by
  unfold oddTaps
  split <;> omega

section
variable (s : State) (b : Bank) (f : Word) {taps n : Nat}

/-- Both copies of the coefficients. -/
theorem readWord_designBank (hn : n < taps) :
    (s.designBank b f taps).readWord .coef (s.coefIndex b n) = (lowpassCoefs f taps).getD n fzero
      ∧ (s.designBank b f taps).readWord .coef (s.coefIndex b (taps + n)) = (lowpassCoefs f taps).getD n fzero := by
  have hlen := lowpassCoefs_length f taps
  have hread (k : Nat) (hk : k < 2 * taps) : (s.designBank b f taps).readWord .coef (s.coefIndex b k)
      = (lowpassCoefs f taps ++ lowpassCoefs f taps).getD k fzero := by
    refine (State.readWord_writeWords s .coef .coef _ _ _).trans ?_
    rw [State.coefIndex, State.coefIndex, Nat.add_zero,
      if_pos ⟨rfl, Nat.le_add_right _ k, by rw [List.length_append]; omega⟩, Nat.add_sub_cancel_left]
    rfl
  constructor
  · rw [hread n (by omega), List.getD_append _ _ _ _ (by omega)]
  · rw [hread (taps + n) (by omega), List.getD_append_right _ _ _ _ (by omega), hlen, Nat.add_sub_cancel_left]

theorem byte_designBank {id : MemId} {a : Nat} (h : outsideWords id .coef (s.coefIndex b 0) (2 * taps) a) :
    (s.designBank b f taps).byte id a = s.byte id a := by
  refine State.byte_writeWords s .coef id (s.coefIndex b 0) _ a ?_
  rwa [List.length_append, lowpassCoefs_length, ← Nat.two_mul]

end

/-! ### LP_DESIGN -/

theorem cutoffOk_of_range {f : Word} (hpos : flt fzero f = true) (hhalf : fle f fhalf = true) : cutoffOk f = true := by
  simp only [fle, Bool.and_eq_true, Bool.not_eq_true', decide_eq_true_eq] at hhalf
  obtain ⟨⟨hnan, -⟩, hle⟩ := hhalf
  have hgt : fgt f fhalf = false := by simp [fgt, flt, hle]
  rw [cutoffOk, hnan, hpos, hgt]
  rfl

section
variable {bank : Nibble} {b : Bank} {t : State} (hb : bankOf bank = some b) (hcut : cutoffOk t.arg0F = true)
include hb hcut

theorem lpDesignBody_tooLong (hlong : t.inst.tapsMax < oddTaps t.arg1Nat) :
    lpDesignBody bank t = .ret rcAllocationFailure t := by
  rw [lpDesignBody, withBank_of_some hb, hcut, if_neg (by decide), if_pos hlong]

theorem lpDesignBody_zeroSum (hfit : oddTaps t.arg1Nat ≤ t.inst.tapsMax)
    (hsum : lowpassSumIsZero t.arg0F (oddTaps t.arg1Nat) = true) : lpDesignBody bank t = .raise .badArgument := by
  rw [lpDesignBody, withBank_of_some hb, hcut, if_neg (by decide), if_neg (Nat.not_lt.2 hfit), if_pos hsum]

theorem lpDesignBody_designs (hfit : oddTaps t.arg1Nat ≤ t.inst.tapsMax)
    (hsum : lowpassSumIsZero t.arg0F (oddTaps t.arg1Nat) = false) : lpDesignBody bank t = .ret rcOk
      ((t.designBank b t.arg0F (oddTaps t.arg1Nat)).setRes0 (BitVec.ofNat 32 (oddTaps t.arg1Nat))) := by
  rw [lpDesignBody, withBank_of_some hb, hcut, if_neg (by decide), if_neg (Nat.not_lt.2 hfit), hsum, if_neg (by decide)]

end

theorem State.Admits.ends {s u : State} {i : Instr} {body : State → CmdEnd} {code : Word} (h : s.Admits i)
    (hbody : body s.beginCommand = .ret code u) : runCommand i body s = .next (u.endCommand code) := by
  rw [h.run, hbody, finishCommand_ret]

/-- A command that changes RES at most. -/
theorem res_completed (s : State) (r : Quad) (code : Word) :
    Completed code s ({ s.beginCommand with res := r }.endCommand code) := by
  constructor
  case toKept =>
    constructor
    case toBase => constructor <;> rfl
    all_goals rfl
  all_goals rfl

/-- A command whose own rule changes nothing and returns a code. -/
theorem State.Admits.returns {s : State} {i : Instr} {body : State → CmdEnd} {code : Word} (h : s.Admits i)
    (hbody : body s.beginCommand = .ret code s.beginCommand) :
    ∃ t, runCommand i body s = .next t ∧ Completed code s t ∧ DataKept s t :=
  ⟨_, h.ends hbody, res_completed s s.res code, rfl, rfl, rfl, fun _ _ => rfl⟩

/-! ### LP_APPLY (rules R125, R127) -/

theorem lowPassReal_eq_filterOutput (s : State) (line : MemId) (newest n : Nat) (b : Bank) :
    s.lowPassReal line newest n b = s.filterOutput (s.readWord line) b.id newest n :=
  accumulate_eq_filterSum _ _ n

section
variable (s : State)

theorem applyBank_fm : s.applyBank .fm =
    ⟨s.filterOutput (s.readWord .lpfm) 3 (newestIndex s.run.lpfmWp.toNat s.size.taps3.toNat) s.size.taps3.toNat, fzero⟩ :=
  congrArg (Cx.mk · fzero) (lowPassReal_eq_filterOutput s .lpfm _ _ .fm)

theorem applyBank_decim : s.applyBank .decim =
    let newest := newestIndex s.run.sdec.toNat s.size.taps0.toNat
    ⟨s.filterOutput (fun i => (s.readCx .decbuf i).re) 0 newest s.size.taps0.toNat,
      s.filterOutput (fun i => (s.readCx .decbuf i).im) 0 newest s.size.taps0.toNat⟩ :=
  lowPassCx_eq_filterOutput s .decbuf _ _ .decim

theorem applyBank_iq {b : Bank} (h : b = .iqAcq ∨ b = .iqLock) : s.applyBank b =
    let newest := newestIndex s.run.lpiqWp.toNat (s.size.taps b)
    ⟨s.filterOutput (fun i => (s.readCx .lpiq i).re) b.id newest (s.size.taps b),
      s.filterOutput (fun i => (s.readCx .lpiq i).im) b.id newest (s.size.taps b)⟩ := by
  rcases h with rfl | rfl
  · exact lowPassCx_eq_filterOutput s .lpiq _ _ .iqAcq
  · exact lowPassCx_eq_filterOutput s .lpiq _ _ .iqLock

end

theorem lpApplyBody_applies {bank : Nibble} {b : Bank} {t : State} (hb : bankOf bank = some b) (h : t.size.taps b ≠ 0) :
    lpApplyBody bank t = .ret rcOk (t.setRes01 (t.applyBank b).re (t.applyBank b).im) := by
  rw [lpApplyBody, withBank_of_some hb, if_neg h]

end Sys2Proof.Machine
end

section
/-! SUPPORT. The statements about the filters. -/

namespace Sys2Proof.Scope

open Machine

/-- Settles O40: the command's own rule case by case (`lpDesignBody_tooLong`, `lpDesignBody_zeroSum`,
`lpDesignBody_designs`); a design reads back as its coefficients twice (`readWord_designBank`). -/
theorem lpDesignCompletes : Obligations.LpDesignCompletes := by
  intro bank b s taps hb hf hu hpos hhalf htaps
  obtain rfl : taps = oddTaps s.arg.r1.toNat := htaps
  have hrun : s.Admits (.lpDesign bank) := ⟨hf, bankSelectorOk_of_some hb, decide_eq_true hu⟩
  have hcut : cutoffOk s.beginCommand.arg0F = true := cutoffOk_of_range hpos hhalf
  refine ⟨fun hlong => hrun.returns (lpDesignBody_tooLong hb hcut hlong),
    fun hfit hsum => hrun.raises (lpDesignBody_zeroSum hb hcut hfit hsum), fun hfit hsum => ?designs⟩
  have hodd := oddTaps_odd s.arg.r1.toNat
  have hread {n : Nat} (hn : n < oddTaps s.arg.r1.toNat) := readWord_designBank s.beginCommand b s.arg.r0 hn
  refine ⟨_, hrun.ends (lpDesignBody_designs hb hcut hfit hsum), by constructor <;> rfl, rfl, rfl, rfl, rfl, rfl, rfl,
    rfl, rfl, fun n hn => ?copies, fun hone => ?one, fun hmax n hn => ?half, fun id a h => byte_designBank _ _ _ h⟩
  case copies =>
    obtain ⟨hfirst, hsecond⟩ := hread hn
    obtain ⟨hmirror, -⟩ := hread (Nat.sub_one_sub_lt hn)
    refine ⟨hfirst, ?_, (hmirror.trans (lowpassCoefs_symmetric _ hodd hn)).trans hfirst.symm⟩
    rw [Nat.add_assoc]
    exact hsecond
  case one =>
    obtain ⟨hfirst, -⟩ := hread (n := 0) (by omega)
    exact hfirst.trans (by rw [hone, lowpassCoefs_one])
  case half =>
    obtain ⟨hfirst, -⟩ := hread hn
    exact hfirst.trans (by rw [hmax, lowpassCoefs_half hn])

/-- Settles O41: each bank's output is the ordered sum on its own delay line (`applyBank_fm`, `applyBank_decim`,
`applyBank_iq`). -/
theorem lpApplyCompletes : Obligations.LpApplyCompletes := by
  intro bank b s hb hf hu htaps
  have hrun : s.Admits (.lpApply bank) := ⟨hf, bankSelectorOk_of_some hb, decide_eq_true hu⟩
  refine ⟨_, hrun.ends (lpApplyBody_applies hb htaps), res_completed s _ _, rfl,
    ?fm, ?decim, ?iq, rfl, rfl, fun _ _ => rfl⟩
  case fm =>
    rintro rfl
    exact Cx.mk.inj (applyBank_fm s.beginCommand)
  case decim =>
    rintro rfl
    exact Cx.mk.inj (applyBank_decim s.beginCommand)
  case iq =>
    intro hiq
    exact Cx.mk.inj (applyBank_iq s.beginCommand hiq)

end Sys2Proof.Scope
end

section
/-! SUPPORT. A result that is a value of F is exact, and the conversion of samples (rule R142). -/

namespace Sys2Proof.Machine

/-! ### Exact results -/

/-- No finite value reaches the magnitude that rounds to infinity. -/
theorem units_lt_overflowUnits {c : Word} (h : isFinite c = true) : (units c).natAbs < overflowUnits := by
  have hinf := infMag_eq
  have hmag : fmag c < infMag := by simpa [isFinite] using h
  calc (units c).natAbs = magUnits (fmag c) := units_natAbs c
    _ ≤ magUnits ((253 + 1) * 2 ^ 23 + (2 ^ 23 - 1)) := magUnits_strictMono.monotone (by omega)
    _ = (2 ^ 23 + (2 ^ 23 - 1)) * 2 ^ 253 := magUnits_normal 253 (by decide)
    _ < overflowUnits := by decide

/-- Rounding a real that is a value of F gives that value. -/
theorem RoundedTo.exact {r c : Word} {num : Int} {den : Nat} (h : RoundedTo r num den) (hden : 0 < den)
    (hc : isFinite c = true) (hval : units c * den = num) : isFinite r = true ∧ units r * den = num := by
  have hbelow : num.natAbs < overflowUnits * den := by
    rw [← hval, Int.natAbs_mul, Int.natAbs_natCast]
    exact Nat.mul_lt_mul_of_pos_right (units_lt_overflowUnits hc) hden
  have hfin := h.finite hbelow
  obtain ⟨hnear, -⟩ := h.nearest hfin c hc
  exact ⟨hfin, by omega⟩

/-- A quotient that is a value of F is exact. -/
theorem fdiv_exact {a b c : Word} (ha : isFinite a = true) (hb : isFinite b = true) (hz : isZero b = false)
    (hc : isFinite c = true) (hval : units c * units b = units a * 2 ^ 149) :
    isFinite (fdiv a b) = true ∧ units (fdiv a b) * units b = units a * 2 ^ 149 := by
  have hsign : ((units b).natAbs : Int) = units b * (if fsign b = true then -1 else 1) := by
    rw [units_natAbs, units_eq]
    cases fsign b <;> simp
  have hne : (if fsign b = true then (-1 : Int) else 1) ≠ 0 := by split <;> decide
  have hpos : 0 < (units b).natAbs := by
    rw [units_natAbs, Nat.pos_iff_ne_zero, ne_eq, magUnits_eq_zero]
    simpa [isZero] using hz
  obtain ⟨hfin, hexact⟩ := (roundedTo_fdiv ha hb hz).exact hpos hc (by rw [hsign, ← mul_assoc, hval])
  rw [hsign, ← mul_assoc] at hexact
  exact ⟨hfin, mul_right_cancel₀ hne hexact⟩

/-- A magnitude of at most 24 significant bits, up to an exponent. -/
theorem exists_magUnits (e : Nat) {k : Nat} (hk : k ≤ 2 ^ 24) :
    ∃ m, m ≤ e * 2 ^ 23 + 2 ^ 24 ∧ magUnits m = k * 2 ^ e := by
  induction e generalizing k with
  | zero => exact ⟨0 * 2 ^ 23 + k, by omega, magUnits_step 0 hk (.inl rfl)⟩
  | succ e ih =>
    by_cases hnormal : 2 ^ 23 ≤ k
    · exact ⟨(e + 1) * 2 ^ 23 + k, by omega, magUnits_step (e + 1) hk (.inr hnormal)⟩
    · obtain ⟨m, hm, hunits⟩ := ih (k := 2 * k) (by omega)
      refine ⟨m, hm.trans (Nat.add_le_add_right (Nat.mul_le_mul_right _ e.le_succ) _), ?_⟩
      rw [hunits, Nat.pow_succ']
      ring

/-- An integer of at most 24 bits times a power of two is a value of F, a number of units. -/
theorem exists_units {n : Int} (hn : n.natAbs ≤ 2 ^ 24) {e : Nat} (he : e ≤ 252) :
    ∃ c, isFinite c = true ∧ units c = n * 2 ^ e := by
  have hinf := infMag_eq
  obtain ⟨m, hm, hunits⟩ := exists_magUnits e hn
  have hfinite : m < infMag := by omega
  have hmag : m < 2 ^ 31 := by omega
  refine ⟨pack (decide (n < 0)) m, ?_, ?_⟩
  · rw [isFinite, fmag_pack _ hmag]
    exact decide_eq_true hfinite
  · rw [units_eq, fsign_pack _ hmag, fmag_pack _ hmag, hunits]
    push_cast
    rw [← mul_assoc]
    congr 1
    by_cases hneg : n < 0
    · simp [hneg, abs_of_neg]
    · simp [hneg, abs_of_nonneg (not_lt.1 hneg)]

theorem i2f_exact {n : Int} (hn : n.natAbs ≤ 2 ^ 24) : isFinite (i2f n) = true ∧ units (i2f n) = n * 2 ^ 149 := by
  obtain ⟨c, hc, hunits⟩ := exists_units hn (e := 149) (by decide)
  have := (roundedTo_i2f n).exact Nat.one_pos hc (by rw [hunits, Nat.cast_one, mul_one])
  rwa [Nat.cast_one, mul_one] at this

/-- An integer of at most 24 bits over a power of two. -/
theorem fdiv_i2f_exact {n : Int} (hn : n.natAbs ≤ 2 ^ 24) {d : Word} {p : Int} {k : Nat} (hp : p = 2 ^ k)
    (hk : k ≤ 149) (hd : isFinite d = true) (hunits : units d = p * 2 ^ 149) :
    isFinite (fdiv (i2f n) d) = true ∧ units (fdiv (i2f n) d) * p = n * 2 ^ 149 := by
  obtain ⟨hfin, hnum⟩ := i2f_exact hn
  obtain ⟨c, hc, hquot⟩ := exists_units hn (e := 149 - k) (by omega)
  have hunit : (2 : Int) ^ 149 ≠ 0 := by positivity
  have hz : isZero d = false := by
    refine decide_eq_false fun h0 => ?_
    have hzero : units d = 0 := by rw [units_eq, h0, magUnits_zero, Nat.cast_zero, mul_zero]
    have hne : p * 2 ^ 149 ≠ 0 := mul_ne_zero (hp ▸ by positivity) hunit
    exact hne (hunits.symm.trans hzero)
  have hval : units c * units d = units (i2f n) * 2 ^ 149 := by
    rw [hunits, hquot, hnum, hp, ← mul_assoc, mul_assoc n, ← pow_add, Nat.sub_add_cancel hk]
  obtain ⟨hq, hexact⟩ := fdiv_exact hfin hd hz hc hval
  rw [hunits, hnum, ← mul_assoc] at hexact
  exact ⟨hq, mul_right_cancel₀ hunit hexact⟩

/-! ### Conversion of samples -/

theorem convSample_eight (raw : Word) :
    convSample 8 raw = fdiv (i2f ((raw.toNat % 256 : Nat) - 128 : Int)) f128 := if_pos rfl

theorem convSample_sixteen (raw : Word) : convSample 16 raw = fdiv (i2f (raw.setWidth 16).toInt) f32768 :=
  (if_neg (by decide)).trans (if_pos rfl)

/-- 8-bit samples are unsigned with the offset 128. -/
theorem convSample_eight_exact (raw : Word) : isFinite (convSample 8 raw) = true
    ∧ units (convSample 8 raw) * 128 = ((raw.toNat % 256 : Nat) - 128 : Int) * 2 ^ 149 := by
  have hlt := Nat.mod_lt raw.toNat (show 0 < 256 by decide)
  rw [convSample_eight]
  exact fdiv_i2f_exact (k := 7) (by omega) (by decide) (by decide) (by decide) (by decide)

/-- 16-bit samples are signed. -/
theorem convSample_sixteen_exact (raw : Word) : isFinite (convSample 16 raw) = true
    ∧ units (convSample 16 raw) * 32768 = (raw.setWidth 16).toInt * 2 ^ 149 := by
  have hle := BitVec.le_toInt (raw.setWidth 16)
  have hlt := BitVec.toInt_lt (x := raw.setWidth 16)
  rw [convSample_sixteen]
  exact fdiv_i2f_exact (k := 15) (by omega) (by decide) (by decide) (by decide) (by decide)

theorem convSample_eight_zero {raw : Word} (h : raw.toNat % 256 = 128) : convSample 8 raw = fzero := by
  rw [convSample_eight, h]
  decide

theorem convSample_sixteen_zero {raw : Word} (h : raw.toNat % 65536 = 0) : convSample 16 raw = fzero := by
  have hlow : raw.setWidth 16 = 0#16 := BitVec.eq_of_toNat_eq h
  rw [convSample_sixteen, hlow]
  decide

/-- A stereo stream's channel is the one that CHSEL picks (rule R143). -/
theorem readReal_eq (s : State) (f : Frame) : s.readReal f
    = convSample s.cfg.bps (if s.cfg.stereo = true ∧ s.cfg.chsel = true then f.r1 else f.r0) := by
  simp only [State.readReal, Bool.and_eq_true]

end Sys2Proof.Machine
end

section
/-! SUPPORT. The commands that read samples: a frame delivered, and the end of the stream (rules R141 to R147, R251). -/

namespace Sys2Proof.Machine

/-! ### The end of the stream -/

theorem pull_short {s : State} {n : Nat} (he : s.status.eos = false) (hn : s.framesLeft n = false) :
    pull n s = (none, s.atEos) := by
  simp [pull, he, hn, State.atEos]

theorem pullOne_short {s : State} (he : s.status.eos = false) (hn : s.framesLeft 1 = false) :
    pullOne s = (none, s.atEos) := by
  rw [pullOne, pull_short he hn]

/-- An acquisition with DECIM takes all its frames or none (rule R149). -/
theorem acquire_short {s : State} (he : s.status.eos = false)
    (hn : s.framesLeft (if s.cfg.decim = true then s.size.decm.toNat else 1) = false) :
    acquire s = (none, s.atEos) := by
  by_cases hd : s.cfg.decim = true
  · rw [if_pos hd] at hn
    rw [acquire, if_pos hd, acquireDecim, pull_short he hn]
  · rw [if_neg hd] at hn
    rw [acquire, if_neg hd, pullOne_short he hn]

theorem demodStep_short {s : State} (he : s.status.eos = false) (hn : s.framesLeft s.framesNeeded = false) :
    demodStep s = (none, s.atEos) := by
  unfold demodStep
  by_cases hiq : s.cfg.iq = true
  · rw [if_pos hiq, acquire_short he (by simpa [State.framesNeeded, hiq] using hn)]
  · rw [if_neg hiq, pullOne_short he (by simpa [State.framesNeeded, hiq] using hn)]

/-! ### The estimator within a command -/

/-- The estimator reads no more than its registers, SR and S_DECM. -/
theorem iqdcUpdate_run_congr {s t : State} (hrun : t.run = s.run) (hcfg : t.cfg = s.cfg) (hsize : t.size = s.size)
    (x y : Word) : (t.iqdcUpdate x y).run = (s.iqdcUpdate x y).run := by
  unfold State.iqdcUpdate State.closeWindow State.iqdcLimit
  rw [hrun, hcfg, hsize]
  by_cases h : s.run.iqdcCnt + 1#32 = s.run.iqdcMaxCnt
  · rw [if_pos h, if_pos h]
  · rw [if_neg h, if_neg h]

/-! ### What the commands' own rules do in READY -/

section
variable {t : State} (hr : t.status.session = .ready) (he : t.status.eos = false)
include hr he

theorem rdSampleBody_pulls (hn : t.framesLeft 1 = true) : rdSampleBody t
    = .ret rcOk ({ t with srcPos := t.srcPos + 1 }.setRes0 (t.readReal (t.source.frame t.srcPos))) := by
  rw [rdSampleBody, if_neg (by simp [hr]), pullOne_of_framesLeft he hn]
  rfl

theorem rdSampleBody_short (hn : t.framesLeft 1 = false) : rdSampleBody t = .ret rcEndOfStream t.atEos := by
  rw [rdSampleBody, if_neg (by simp [hr]), pullOne_short he hn]

theorem rdCsampleBody_pulls (hst : t.cfg.stereo = true) (hn : t.framesLeft 1 = true) : rdCsampleBody t
    = let p := t.readComplex (t.source.frame t.srcPos)
      .ret rcOk ({ t with srcPos := t.srcPos + 1, run := p.2.run }.setRes01 p.1.re p.1.im) := by
  rw [rdCsampleBody, if_neg (by simp [hst]), if_neg (by simp [hr]), pullOne_of_framesLeft he hn]
  dsimp only [State.readComplex]
  rw [iqdcUpdate_outside t _ t.during]

theorem rdCsampleBody_short (hst : t.cfg.stereo = true) (hn : t.framesLeft 1 = false) :
    rdCsampleBody t = .ret rcEndOfStream t.atEos := by
  rw [rdCsampleBody, if_neg (by simp [hst]), if_neg (by simp [hr]), pullOne_short he hn]

theorem demodStepBody_short (hn : t.framesLeft t.framesNeeded = false) :
    demodStepBody t = .ret rcEndOfStream t.atEos := by
  rw [demodStepBody, if_neg (by simp [hr]), demodStep_short he hn]

end

/-! ### How the commands end -/

/-- A command that changes RES, the run-time registers and the SOURCE's position at most. -/
theorem delivery_completed (s : State) (q : Quad) (r : Run) (p : Nat) (code : Word) :
    Completed code s ({ s.beginCommand with res := q, run := r, srcPos := p }.endCommand code) := by
  constructor
  case toKept =>
    constructor
    case toBase => constructor <;> rfl
    all_goals rfl
  all_goals rfl

theorem atEos_kept (s : State) (code : Word) : Kept s (s.beginCommand.atEos.endCommand code) := by
  constructor
  case toBase => constructor <;> rfl
  all_goals rfl

end Sys2Proof.Machine
end

section
/-! SUPPORT. The statements about the SOURCE and ingestion. -/

namespace Sys2Proof.Scope

open Machine

/-- Settles O21: every integer of at most 24 bits, over a power of two, is a value of F, so the division is exact
(`fdiv_i2f_exact`). -/
theorem conversionExact : Obligations.ConversionExact := fun raw =>
  ⟨convSample_eight_exact raw, convSample_sixteen_exact raw, convSample_eight_zero, convSample_sixteen_zero, rfl⟩

/-- Settles O25: each command's own rule finds too few frames (`rdSampleBody_short`, `rdCsampleBody_short`,
`demodStepBody_short`) and declares the end of the stream (`State.atEos`). -/
theorem streamEndsCleanly : Obligations.StreamEndsCleanly := by
  intro i need s hf hr he hi hshort
  have hopen : s.status.session ≠ .uninit := by simp [hr]
  have hend : exec i s = .next (s.beginCommand.atEos.endCommand rcEndOfStream) := by
    rcases hi with ⟨rfl, rfl⟩ | ⟨rfl, rfl, hst⟩ | ⟨rfl, rfl⟩
    · exact State.Admits.ends ⟨hf, rfl, decide_eq_true hopen⟩ (rdSampleBody_short hr he hshort)
    · exact State.Admits.ends ⟨hf, rfl, decide_eq_true hopen⟩ (rdCsampleBody_short hr he hst hshort)
    · exact State.Admits.ends ⟨hf, rfl, by simp [legalIn, hr]⟩ (demodStepBody_short hr he hshort)
  exact ⟨_, hend, atEos_kept s rcEndOfStream, rfl, rfl, rfl, rfl, rfl, fun _ _ => rfl⟩

/-- Settles O22: the command's own rule takes one frame (`rdSampleBody_pulls`). -/
theorem rdSampleCompletes : Obligations.RdSampleCompletes := by
  intro s hf hr he hn
  have hrun : s.Admits .rdSample := ⟨hf, rfl, by simp [legalIn, hr]⟩
  refine ⟨_, hrun.ends (rdSampleBody_pulls hr he hn), delivery_completed s _ s.run _ _,
    readReal_eq s.beginCommand _, rfl, rfl, rfl, fun _ _ => rfl⟩

/-- Settles O23: the command's own rule takes one frame (`rdCsampleBody_pulls`), and the estimator does within the
command what it does outside (`iqdcUpdate_run_congr`). -/
theorem rdCsampleCompletes : Obligations.RdCsampleCompletes := by
  intro s hf hr he hst hn
  have hrun : s.Admits .rdCsample := ⟨hf, rfl, by simp [legalIn, hr]⟩
  refine ⟨_, hrun.ends (rdCsampleBody_pulls hr he hst hn), delivery_completed s _ _ _ _, rfl,
    iqdcUpdate_run_congr (s := s) (t := s.beginCommand) rfl rfl rfl _ _, rfl, fun _ _ => rfl⟩

end Sys2Proof.Scope
end

section
/-! SUPPORT. The search of FIND_HDR stride by stride while the HOST is silent (rules R199, R201, R202), and one correlation
step of it with what follows (rules R194, R197, R198). -/

namespace Sys2Proof.Machine

/-! ### One correlation step -/

/-- The registers of a correlation step whose standing pass is `r` (rules R194, R197). -/
def State.recordPass (s : State) (r : PassResult) : State := (s.recordDc r.dc).recordPeak r

theorem corrStep_of_bestPass {s u : State} {thres : Word} {r : PassResult} {path : Bool}
    (h : s.bestPass thres = (r, path, u)) : s.corrStep thres = (r.answer path, u.recordPass r) := by
  rw [State.corrStep, h]
  rfl

/-- A step's code is 0 but for a peak at the window's edge (rule R194). -/
theorem answer_code_eq_rcOk_iff (r : PassResult) (path : Bool) :
    (r.answer path).code = rcOk ↔ ∀ dc mp, r ≠ .boundary dc mp := by
  cases r with
  | noPeak dc => simp [PassResult.answer]
  | boundary dc mp => simp [PassResult.answer, rcOk, rcBoundaryRejection]
  | ok dc mp mpos score => simp [PassResult.answer]

/-- Without a peak a pass leaves MV at +0, which exceeds no legal threshold (rules R194, R202). -/
theorem exists_peak_of_exceeds {s : State} {r : PassResult} {thres : Word} (hlegal : flt thres fzero = false)
    (hcode : ∀ dc mp, r ≠ .boundary dc mp) (hmv : fgt (fabs (s.recordPass r).run.mv) thres = true) :
    ∃ dc mp mpos score, r = .ok dc mp mpos score := by
  cases r with
  | noPeak dc =>
    have hzero : fgt (fabs fzero) thres = flt thres fzero := rfl
    exact absurd (hlegal.symm.trans (hzero.symm.trans hmv)) (by decide)
  | boundary dc mp => exact absurd rfl (hcode dc mp)
  | ok dc mp mpos score => exact ⟨dc, mp, mpos, score, rfl⟩

/-- A correlation step that takes up no candidate (rule R202). -/
theorem searchStep_of_not_found {s u : State} {thres : Word} {maxerr : Nat} {a : StepResult}
    (h : { s with run := { s.run with kcnt := 0#32 } }.corrStep thres = (a, u))
    (hfound : ¬ (a.code = rcOk ∧ fgt (fabs u.run.mv) thres = true)) : s.searchStep thres maxerr = (false, u) := by
  rw [State.searchStep, h]
  exact if_neg hfound

/-- A correlation step that takes one up (rule R202). -/
theorem searchStep_of_found {s u : State} {thres : Word} {maxerr : Nat} {a : StepResult}
    (h : { s with run := { s.run with kcnt := 0#32 } }.corrStep thres = (a, u))
    (hfound : a.code = rcOk ∧ fgt (fabs u.run.mv) thres = true) : s.searchStep thres maxerr = u.candidate maxerr := by
  rw [State.searchStep, h]
  exact if_pos hfound

/-- The candidate after the carrier loop (rules R169, R202). -/
def State.peakTracked (s : State) : State := (s.setDet .peakFound).trackCarrier

theorem peakTracked_eq (s : State) : s.peakTracked = if s.cfg.iq = true ∧ s.cfg.dcMode = true then
      { s with status := { s.status with det := .peakFound } }.carrierUpdate
    else { s with status := { s.status with det := .peakFound } } := by
  simp only [State.peakTracked, State.trackCarrier, Cfg.tracking, Bool.and_eq_true]
  rfl

theorem candidate_accepts {s : State} {maxerr : Nat} (h : s.peakTracked.mismatchCount ≤ maxerr) :
    s.candidate maxerr = (true, s.peakTracked.headerFound (BitVec.ofNat 32 s.peakTracked.mismatchCount)) := by
  rw [← headCmp_toNat] at h
  rw [← headCmp_count]
  exact if_pos h

theorem candidate_rejects {s : State} {maxerr : Nat} (h : maxerr < s.peakTracked.mismatchCount) :
    s.candidate maxerr = (false, s.peakTracked.fresh.setDet .searching) := by
  rw [← headCmp_toNat] at h
  exact if_neg (Nat.not_le.2 h)

theorem searchCandidate : SearchCandidate := by
  intro s u thres maxerr r path hpass
  have hmem : MemSpec { s with run := { s.run with kcnt := 0#32 } } u := by
    have h := bestPass_spec { s with run := { s.run with kcnt := 0#32 } } thres
    rwa [hpass] at h
  have hrun : u.run = { s.run with kcnt := 0#32 } := hmem.run
  have hcorr := corrStep_of_bestPass hpass
  have hcode := answer_code_eq_rcOk_iff r path
  refine ⟨u.recordPass r, (u.recordPass r).peakTracked, (u.recordPass r).peakTracked.fresh.setDet .searching,
    decide ((r.answer path).code = rcOk ∧ fgt (fabs (u.recordPass r).run.mv) thres = true), ?registers, ?peak, ?found,
    fun _ hlegal hfound => ?isPeak, ?tracked, fun hfound => ?none, fun hfound herr => ?accepted,
    fun hfound herr => ?rejected⟩
  case registers =>
    rw [← hmem.cfg, ← hmem.inst]
    cases r <;> rfl
  case peak =>
    cases r <;> simp [State.recordPass, State.recordPeak, PassResult.dc, hrun]
  case found => rw [decide_eq_true_iff, hcode]
  case isPeak =>
    obtain ⟨hok, hmv⟩ := of_decide_eq_true hfound
    exact exists_peak_of_exceeds hlegal (hcode.1 hok) hmv
  case tracked =>
    have hcfg : (u.recordPass r).cfg = s.cfg := by
      rw [← hmem.cfg]
      cases r <;> rfl
    rw [peakTracked_eq, hcfg]
  case none => exact searchStep_of_not_found hcorr (of_decide_eq_false hfound)
  case accepted =>
    rw [searchStep_of_found hcorr (of_decide_eq_true hfound), candidate_accepts herr]
    rfl
  case rejected =>
    rw [searchStep_of_found hcorr (of_decide_eq_true hfound), candidate_rejects herr]
    exact ⟨rfl, rfl⟩

/-- A correlation step of the search moves no sample counter, and restarts KCNT (rules R199, R202). -/
theorem searchStep_counters (s : State) (thres : Word) (maxerr : Nat) :
    (s.searchStep thres maxerr).2.run.sampleIn = s.run.sampleIn ∧ (s.searchStep thres maxerr).2.run.kcnt = 0#32 := by
  obtain ⟨m, mv, mvPos, dc, ddf, b, heq⟩ := corrStep_eq { s with run := { s.run with kcnt := 0#32 } } thres
  obtain ⟨⟨a, u⟩, hcorr⟩ : ∃ p, { s with run := { s.run with kcnt := 0#32 } }.corrStep thres = p := ⟨_, rfl⟩
  rw [hcorr] at heq
  have hu : u.run.sampleIn = s.run.sampleIn ∧ u.run.kcnt = 0#32 := by
    rw [show u = _ from heq]
    exact ⟨rfl, rfl⟩
  by_cases hfound : a.code = rcOk ∧ fgt (fabs u.run.mv) thres = true
  · rw [searchStep_of_found hcorr hfound]
    obtain ⟨c, -, hrun, ⟨h, -⟩ | h⟩ := candidate_cases u maxerr
    · rw [h, headerFound_run, hrun]
      exact hu
    · rw [h, setDet_run, fresh_run, hrun]
      exact hu
  · rw [searchStep_of_not_found hcorr hfound]
    exact hu

/-! ### Counted sample steps -/

/-- `t` comes from `s` by `n` counted sample steps of the search, and correlation steps that accept nothing. -/
structure Searched (n : Nat) (s t : State) : Prop extends SearchKept s t where
  sampleIn : t.run.sampleIn = s.run.sampleIn + BitVec.ofNat 32 n
  nosig : t.run.nosig.toNat = s.run.nosig.toNat + n
  room : n ≤ s.lossLimit - s.run.nosig.toNat

theorem SearchKept.lossLimit {s t : State} (h : SearchKept s t) : t.lossLimit = s.lossLimit := by
  rw [State.lossLimit, h.inst, h.cfg, State.lossLimit]

theorem SearchKept.idle {s t : State} (h : SearchKept s t) (hd : s.during = []) : t.during = [] :=
  List.suffix_nil.1 (hd ▸ h.later)

theorem Searched.trans {m n : Nat} {s t u : State} (h : Searched m s t) (k : Searched n t u) : Searched (m + n) s u where
  toSearchKept := h.toSearchKept.trans k.toSearchKept
  sampleIn := by rw [k.sampleIn, h.sampleIn, BitVec.add_assoc, BitVec.ofNat_add]
  nosig := by rw [k.nosig, h.nosig, Nat.add_assoc]
  room := by
    have hm := h.room
    have hn := k.room
    rw [h.lossLimit, h.nosig] at hn
    omega

theorem SearchKept.searched {s t : State} (h : SearchKept s t) (hin : t.run.sampleIn = s.run.sampleIn)
    (hnosig : t.run.nosig = s.run.nosig) : Searched 0 s t :=
  ⟨h, by rw [hin, BitVec.add_zero], by rw [hnosig, Nat.add_zero], Nat.zero_le _⟩

/-- One sample step, counted (rules R201, R202). -/
theorem Searched.of_sample {s t : State} {v : Word} (hlim : s.lossLimit < 2 ^ 32) (hsig : s.signalLost = false)
    (h : demodStep s = (some v, t)) : Searched 1 s t.countSample := by
  have hspec := demodStep_some h
  have hcount : SearchKept t t.countSample := .of_flags t _ t.free t.status.locked t.status.det rfl rfl
  have hbelow := ((signalLost_eq_false_iff s).1 hsig).2
  refine ⟨(SearchKept.of_sample h).trans hcount, hspec.sampleIn, ?_, by omega⟩
  rw [countSample_run, hspec.kept.nosig, BitVec.toNat_add]
  exact Nat.mod_eq_of_lt (by simp; omega)

/-- `n` sample steps, none of which meets the loss of the signal or the end of the stream. -/
theorem searchSteps_searched {n : Nat} {s u : State} (hlim : s.lossLimit < 2 ^ 32) (h : s.searchSteps n = some u) :
    Searched n s u := by
  induction n generalizing s with
  | zero =>
    obtain rfl : s = u := Option.some.inj h
    exact (SearchKept.of_flags s s.run s.free s.status.locked s.status.det rfl rfl).searched rfl rfl
  | succ n ih =>
    obtain ⟨v, t, hsig, hstep, hrest⟩ := searchSteps_succ h
    have hone := Searched.of_sample hlim hsig hstep
    rw [Nat.add_comm]
    exact hone.trans (ih (hone.lossLimit ▸ hlim) hrest)

/-- A correlation step that accepts nothing. -/
theorem Searched.of_rejection {s t : State} {thres : Word} {maxerr : Nat}
    (h : s.searchStep thres maxerr = (false, t)) : Searched 0 s t ∧ t.run.kcnt = 0#32 := by
  obtain ⟨hin, hkcnt⟩ := searchStep_counters s thres maxerr
  rcases searchStep_cases s thres maxerr with ⟨c, hc, -, -⟩ | ⟨u, hu, hkept, hnosig, -⟩
  · rw [hc] at h
    cases h
  · obtain ⟨-, rfl⟩ := Prod.mk.inj (h.symm.trans hu)
    rw [h] at hin hkcnt
    exact ⟨hkept.searched hin hnosig, hkcnt⟩

/-! ### The loop, stride by stride -/

/-- What the loop does with the result of an iteration: return, or search on. -/
def searchOn (thres : Word) (maxerr fuel : Nat) (r : Bool × State) : CmdEnd :=
  if r.1 = true then .ret rcOk r.2 else searchLoop thres maxerr fuel r.2

section
variable (thres : Word) (maxerr : Nat)

/-- An iteration with no HOST access whose sample step completes. -/
theorem searchLoop_sample (fuel : Nat) {s t : State} {v : Word} (hd : s.during = []) (hsig : s.signalLost = false)
    (hstep : demodStep s = (some v, t)) :
    searchLoop thres maxerr (fuel + 1) s = searchOn thres maxerr fuel (t.afterSample thres maxerr) := by
  rw [searchLoop, hostMoment_idle hd]
  simp only [hsig, hstep]
  obtain ⟨⟨found, w⟩, hw⟩ : ∃ p, t.afterSample thres maxerr = p := ⟨_, rfl⟩
  rw [hw]
  cases found <;> rfl

/-- The sample that completes a stride is followed by a correlation step (rule R202). -/
theorem afterSample_correlates {s : State} (hk : s.run.kcnt.toNat + 1 = s.size.k.toNat) :
    s.afterSample thres maxerr = s.countSample.searchStep thres maxerr := by
  have hkcnt : s.countSample.run.kcnt.toNat = s.size.k.toNat := by
    rw [countSample_run, ← hk, BitVec.toNat_add]
    exact Nat.mod_eq_of_lt (by simp; omega)
  exact if_pos hkcnt.ge

/-- The rest of a stride, from any sample of it on. -/
theorem searchLoop_restOfStride (fuel : Nat) {n : Nat} {s u : State} (hd : s.during = [])
    (hu : s.searchSteps (n + 1) = some u) (hk : s.run.kcnt.toNat + (n + 1) = s.size.k.toNat) :
    searchLoop thres maxerr (fuel + (n + 1)) s = searchOn thres maxerr fuel (u.searchStep thres maxerr) := by
  induction n generalizing s with
  | zero =>
    obtain ⟨v, t, hsig, hstep, hrest⟩ := searchSteps_succ hu
    obtain rfl : t.countSample = u := Option.some.inj hrest
    have hspec := demodStep_some hstep
    rw [searchLoop_sample thres maxerr fuel hd hsig hstep, afterSample_correlates]
    rwa [hspec.kept.kcnt, hspec.only.size]
  | succ n ih =>
    obtain ⟨v, t, hsig, hstep, hrest⟩ := searchSteps_succ hu
    have hspec := demodStep_some hstep
    have hk' : t.run.kcnt.toNat + (n + 1 + 1) = t.size.k.toNat := by rwa [hspec.kept.kcnt, hspec.only.size]
    obtain ⟨hafter, hkcnt⟩ := afterSample_counts (s := t) thres maxerr (by omega)
    rw [← Nat.add_assoc fuel, searchLoop_sample thres maxerr _ hd hsig hstep, hafter]
    refine ih (hspec.only.during.trans hd) hrest ?_
    rw [hkcnt, countSample_size, ← hk']
    omega

/-- A stride from its first sample on (rules R199, R202). -/
theorem searchLoop_stride (fuel : Nat) {s u : State} (hd : s.during = []) (hkcnt : s.run.kcnt = 0#32)
    (hk : 1 ≤ s.size.k.toNat) (hu : s.searchSteps s.size.k.toNat = some u) :
    searchLoop thres maxerr (fuel + s.size.k.toNat) s = searchOn thres maxerr fuel (u.searchStep thres maxerr) := by
  obtain ⟨n, hn⟩ : ∃ n, s.size.k.toNat = n + 1 := ⟨s.size.k.toNat - 1, by omega⟩
  rw [hn] at hu ⊢
  exact searchLoop_restOfStride thres maxerr fuel hd hu (by rw [hkcnt, hn]; exact Nat.zero_add _)

/-- One stride that finds no header (rule R199). -/
theorem searchStrides_succ {n : Nat} {s v : State} (h : s.searchStrides thres maxerr (n + 1) = some v) :
    ∃ t u, s.searchSteps s.size.k.toNat = some t ∧ t.searchStep thres maxerr = (false, u)
      ∧ u.searchStrides thres maxerr n = some v := by
  unfold State.searchStrides at h
  split at h
  · cases h
  · rename_i t ht
    split at h
    · cases h
    · rename_i u hu
      exact ⟨t, u, ht, hu, h⟩

/-- Strides that find no header: the state they leave, KCNT at 0 again, and the loop goes on from it. -/
theorem searchLoop_strides {rounds : Nat} {s v : State} (hlim : s.lossLimit < 2 ^ 32) (hd : s.during = [])
    (hkcnt : s.run.kcnt = 0#32) (hk : 1 ≤ s.size.k.toNat) (h : s.searchStrides thres maxerr rounds = some v) :
    Searched (rounds * s.size.k.toNat) s v ∧ v.run.kcnt = 0#32
      ∧ ∀ fuel, searchLoop thres maxerr (fuel + rounds * s.size.k.toNat) s = searchLoop thres maxerr fuel v := by
  induction rounds generalizing s with
  | zero =>
    obtain rfl : s = v := Option.some.inj h
    rw [Nat.zero_mul]
    exact ⟨searchSteps_searched hlim rfl, hkcnt, fun _ => rfl⟩
  | succ rounds ih =>
    obtain ⟨t, u, ht, hu, hrest⟩ := searchStrides_succ thres maxerr h
    obtain ⟨hrej, hukcnt⟩ := Searched.of_rejection hu
    have hstride : Searched s.size.k.toNat s u := (searchSteps_searched hlim ht).trans hrej
    obtain ⟨hv, hvkcnt, hloop⟩ := ih (hstride.lossLimit ▸ hlim) (hstride.idle hd) hukcnt (hstride.size ▸ hk) hrest
    rw [hstride.size] at hv hloop
    refine ⟨?_, hvkcnt, fun fuel => ?_⟩
    · rw [Nat.succ_mul, Nat.add_comm]
      exact hstride.trans hv
    · rw [Nat.succ_mul, ← Nat.add_assoc, searchLoop_stride thres maxerr _ hd hkcnt hk ht, hu]
      exact hloop fuel

end

end Sys2Proof.Machine
end

section
/-! SUPPORT. The statement about the strides of the search. -/

namespace Sys2Proof.Scope

open Machine

/-- Settles O48: the loop runs through the strides that find nothing (`searchLoop_strides`) and the one that finds the
header (`searchLoop_stride`), within its fuel; one correlation step is `searchCandidate`. -/
theorem findHdrReturnsHeader : Obligations.FindHdrReturnsHeader := by
  refine ⟨fun s v u w rounds hf hr hnan hneg hlim hd hk hstrides hsteps hacc => ?_, searchCandidate⟩
  obtain ⟨hv, hvkcnt, hloop⟩ := searchLoop_strides s.arg.r0 s.arg.r1.toNat (s := s.beginCommand.startSearch) hlim hd rfl
    hk hstrides
  rw [startSearch_size, beginCommand_size] at hv hloop
  have hsize : v.size = s.size := hv.size
  have hlast (fuel : Nat) : searchLoop s.arg.r0 s.arg.r1.toNat (fuel + s.size.k.toNat) v = .ret rcOk w := by
    rw [← hsize] at hk hsteps ⊢
    rw [searchLoop_stride _ _ fuel (hv.idle hd) hvkcnt hk hsteps, hacc]
    rfl
  have hu := hv.trans (searchSteps_searched (hv.lossLimit ▸ hlim) hsteps)
  have hroom : rounds * s.size.k.toNat + s.size.k.toNat ≤ s.lossLimit - s.run.nosig.toNat := hu.room
  obtain ⟨fuel, hfuel⟩ : ∃ fuel, s.searchFuel = fuel + s.size.k.toNat + rounds * s.size.k.toNat :=
    ⟨s.searchFuel - (rounds * s.size.k.toNat + s.size.k.toNat), by rw [State.searchFuel]; omega⟩
  have hexec : exec .findHdr s = .next (w.endCommand 0#32) := by
    rw [exec_findHdr_search hf hr hnan hneg, hfuel, hloop, hlast]
    rfl
  have hin := (searchStep_counters u s.arg.r0 s.arg.r1.toNat).1
  rw [hacc] at hin
  rcases searchStep_cases u s.arg.r0 s.arg.r1.toNat with ⟨c, hc, hkept, hat⟩ | ⟨t, ht, -⟩
  · obtain ⟨-, rfl⟩ := Prod.mk.inj (hacc.symm.trans hc)
    have hall := (startSearch_kept s.beginCommand).trans (hu.toSearchKept.trans hkept)
    obtain ⟨-, hidle⟩ := hall.keptWhileBusy hf (t := (c.headerFound c.headCmp.1).endCommand 0#32) (.of_eq rfl rfl rfl)
    refine ⟨hexec, (hidle hd).1, rfl, hall.session.trans hr, rfl, hat.kcnt, ?sampleIn, ?res,
      (headCmp_toNat c).symm.trans_le hat.errors⟩
    case sampleIn =>
      rw [Nat.succ_mul]
      exact hin.trans hu.sampleIn
    case res =>
      rw [headerFound_res, headCmp_count, hall.res]
      rfl
  · cases hacc.symm.trans ht

end Sys2Proof.Scope
end

section
/-! SUPPORT. The sample step in real mode (rules R160, R171), the stages of a sample step in IQ mode (rules R163 to R168),
and the carrier loop (rules R169, R170). -/

namespace Sys2Proof.Machine

/-! ### Real mode -/

/-- In real mode the frame's sample goes straight to BUFS (rule R160). -/
theorem demodStep_real {s : State} (hiq : s.cfg.iq = false) (he : s.status.eos = false) (hn : s.framesLeft 1 = true) :
    demodStep s = (some (s.readReal (s.source.frame s.srcPos)),
      { s with srcPos := s.srcPos + 1 }.appendSample s.run.sampleIn (s.readReal (s.source.frame s.srcPos))) := by
  rw [demodStep, if_neg (by simp [hiq]), pullOne_of_framesLeft he hn]
  rfl

/-! ### Reads of one memory -/

section
variable {s t : State} {id : MemId} (hmem : t.mem.get id = s.mem.get id) (hfree : t.free = s.free)
include hmem hfree

/-- A read depends on its own memory and the free values alone. -/
theorem readWord_of_get (i : Nat) : t.readWord id i = s.readWord id i := by
  rw [State.readWord, State.readWord, hmem, hfree]

theorem readCx_of_get (i : Nat) : t.readCx id i = s.readCx id i := readCx_congr (readWord_of_get hmem hfree) i

end

/-- A filter's sum depends on the parameters, the coefficients and the line. -/
theorem filterOutput_congr {s t : State} (hinst : t.inst = s.inst) (hfree : t.free = s.free)
    (hcoef : t.mem.get .coef = s.mem.get .coef) {x y : Nat → Word} (hline : ∀ i, x i = y i) (b newest taps : Nat) :
    t.filterOutput x b newest taps = s.filterOutput y b newest taps := by
  rw [State.filterOutput, State.filterOutput, hinst, funext hline]
  exact congrArg (filterSum y · taps) (funext fun i => readWord_of_get hcoef hfree _)

/-- An entry just written. -/
theorem readWord_writeWords_self (s : State) (id : MemId) (i : Nat) (w : Word) :
    (s.writeWords id i [w]).readWord id i = w := by
  rw [State.readWord_writeWords, if_pos ⟨rfl, le_rfl, Nat.lt_succ_self _⟩, Nat.sub_self]
  rfl

theorem readCx_writeCxs_self (s : State) (id : MemId) (i : Nat) (z : Cx) : (s.writeCxs id i [z]).readCx id i = z := by
  rw [State.readCx_writeCxs, if_pos ⟨rfl, le_rfl, Nat.lt_succ_self _⟩, Nat.sub_self]
  rfl

/-! ### De-rotation (rule R163) -/

theorem derot_finite {s : State} (n : Word) (h : isFinite s.run.df = true) :
    s.derot n = cis s.inst.num (-(units s.run.df * n.toNat)) (s.cfg.sr.toNat * 2 ^ 149) := if_pos h

theorem derot_not_finite {s : State} (n : Word) (h : isFinite s.run.df = false) :
    isNaN (s.derot n).re = true ∧ isNaN (s.derot n).im = true := by
  rw [State.derot, h]
  exact ⟨isNaN_nanOf _ _ _, isNaN_nanOf _ _ _⟩

/-! ### The stages in IQ mode -/

/-- Seen in `t`, the IF filter has made `y` of `x` in the block `s`, or passed it on (rule R164). -/
structure IfOutput (s t : State) (x y : Cx) : Prop where
  off : s.cfg.lpIq = false → y = x ∧ t.run.lpiqWp = s.run.lpiqWp ∧ ∀ a, t.byte .lpiq a = s.byte .lpiq a
  on : s.cfg.lpIq = true →
    let wp := s.run.lpiqWp.toNat
    let taps := s.size.taps1.toNat
    let bank := if s.status.locked = true then 2 else 1
    t.readCx .lpiq wp = x ∧ (∀ a, outsideWords .lpiq .lpiq (2 * wp) 2 a → t.byte .lpiq a = s.byte .lpiq a)
      ∧ t.run.lpiqWp = BitVec.ofNat 32 ((wp + 1) % taps)
      ∧ y = ⟨t.filterOutput (fun i => (t.readCx .lpiq i).re) bank wp taps,
          t.filterOutput (fun i => (t.readCx .lpiq i).im) bank wp taps⟩

theorem iqBank_id (s : State) : s.iqBank.id = if s.status.locked = true then 2 else 1 := by
  rw [State.iqBank]
  split <;> rfl

theorem ifStage_output {s r : State} {x y : Cx} (h : s.ifStage x = (y, r)) : IfOutput s r x y := by
  unfold State.ifStage at h
  refine ⟨fun hoff => ?_, fun hon => ?_⟩
  · rw [hoff, if_neg (by decide)] at h
    cases h
    exact ⟨rfl, rfl, fun _ => rfl⟩
  · rw [hon, if_pos rfl] at h
    cases h
    refine ⟨readCx_writeCxs_self s .lpiq _ x, fun a ha => s.byte_writeWords .lpiq .lpiq _ _ a ha, rfl, ?_⟩
    rw [← iqBank_id]
    exact lowPassCx_eq_filterOutput _ .lpiq _ _ _

/-- Stages that leave LPIQ, its pointer and the coefficients alone do not change what is seen of the filter. -/
theorem IfOutput.later {s r t : State} {x y : Cx} (h : IfOutput s r x y) (hinst : t.inst = r.inst)
    (hfree : t.free = r.free) (hpointer : t.run.lpiqWp = r.run.lpiqWp)
    (hcoef : t.mem.get .coef = r.mem.get .coef) (hline : t.mem.get .lpiq = r.mem.get .lpiq) : IfOutput s t x y := by
  have hread := readCx_of_get hline hfree
  have hbyte := byte_congr hline
  refine ⟨fun hoff => ?_, fun hon => ?_⟩
  · obtain ⟨hy, hptr, hbytes⟩ := h.off hoff
    exact ⟨hy, hpointer.trans hptr, fun a => (hbyte a).trans (hbytes a)⟩
  · obtain ⟨hentry, hbytes, hptr, hy⟩ := h.on hon
    refine ⟨(hread _).trans hentry, fun a ha => (hbyte a).trans (hbytes a ha), hpointer.trans hptr, hy.trans ?_⟩
    rw [filterOutput_congr hinst hfree hcoef fun i => congrArg Cx.re (hread i),
      filterOutput_congr hinst hfree hcoef fun i => congrArg Cx.im (hread i)]

theorem ifStage_frame {s r : State} {x y : Cx} (h : s.ifStage x = (y, r)) :
    r = { s with mem := r.mem, run := { s.run with lpiqWp := r.run.lpiqWp } } := by
  unfold State.ifStage at h
  split at h
  · cases h
    rfl
  · cases h
    rfl

/-- The discriminator and its entry of DCBUF take the block from `r` to `w` for the sample `y` of position `n`, with the
output `v` (rules R165, R166). -/
structure Discriminated (r w : State) (n : Word) (y : Cx) (v : Word) : Prop where
  output : v = r.discriminator y (r.readCx .iqbuf (r.circ (n - 1#32)))
  sample : w.readCx .iqbuf (r.circ n) = y
  sampleBytes : ∀ a, outsideWords .iqbuf .iqbuf (2 * r.circ n) 2 a → w.byte .iqbuf a = r.byte .iqbuf a
  entry : w.readWord .dcbuf (r.circ n) = v
  entryBytes : ∀ a, outsideWords .dcbuf .dcbuf (r.circ n) 1 a → w.byte .dcbuf a = r.byte .dcbuf a
  get : ∀ id, id ≠ .iqbuf → id ≠ .dcbuf → w.mem.get id = r.mem.get id
  frame : w = { r with mem := w.mem }

theorem discriminate_discriminated {r u : State} {n v : Word} {y : Cx} (h : r.discriminate y n = (v, u)) :
    Discriminated r (u.writeWords .dcbuf (u.circ n) [v]) n y v := by
  cases h
  have hiq : MemId.iqbuf ≠ .dcbuf := by decide
  have hdc : MemId.dcbuf ≠ .iqbuf := by decide
  constructor
  case output => rfl
  case sample => exact (readCx_of_get (get_writeWords _ _ _ hiq) rfl _).trans (readCx_writeCxs_self r .iqbuf _ y)
  case sampleBytes =>
    exact fun a ha => (byte_congr (get_writeWords _ _ _ hiq) a).trans (r.byte_writeWords .iqbuf .iqbuf _ _ a ha)
  case entry => exact readWord_writeWords_self _ .dcbuf _ _
  case entryBytes =>
    exact fun a ha => (State.byte_writeWords _ .dcbuf .dcbuf _ [_] a ha).trans (byte_congr (get_writeCxs r _ _ hdc) a)
  case get => exact fun id hid hid' => (get_writeWords _ _ _ hid').trans (get_writeCxs r _ _ hid)
  case frame => rfl

/-- Seen in `t`, the FM filter has made `out` of `v` in the block `s`, or passed it on (rule R167). -/
structure FmOutput (s t : State) (v out : Word) : Prop where
  off : s.cfg.lpFm = false → out = v ∧ t.run.lpfmWp = s.run.lpfmWp ∧ ∀ a, t.byte .lpfm a = s.byte .lpfm a
  on : s.cfg.lpFm = true →
    let wp := s.run.lpfmWp.toNat
    let taps := s.size.taps3.toNat
    t.readWord .lpfm wp = v ∧ (∀ a, outsideWords .lpfm .lpfm wp 1 a → t.byte .lpfm a = s.byte .lpfm a)
      ∧ t.run.lpfmWp = BitVec.ofNat 32 ((wp + 1) % taps)
      ∧ out = t.filterOutput (t.readWord .lpfm) 3 wp taps

theorem fmStage_output {w t : State} {v out : Word} (h : w.fmStage v = (out, t)) : FmOutput w t v out := by
  unfold State.fmStage at h
  refine ⟨fun hoff => ?_, fun hon => ?_⟩
  · rw [hoff, if_neg (by decide)] at h
    cases h
    exact ⟨rfl, rfl, fun _ => rfl⟩
  · rw [hon, if_pos rfl] at h
    cases h
    exact ⟨readWord_writeWords_self w .lpfm _ v, fun a ha => w.byte_writeWords .lpfm .lpfm _ _ a ha, rfl,
      lowPassReal_eq_filterOutput _ .lpfm _ _ .fm⟩

/-- The stages before the FM filter leave alone what it works on. -/
theorem FmOutput.earlier {s w t : State} {v out : Word} (h : FmOutput w t v out) (hcfg : w.cfg = s.cfg)
    (hsize : w.size = s.size) (hpointer : w.run.lpfmWp = s.run.lpfmWp)
    (hline : w.mem.get .lpfm = s.mem.get .lpfm) : FmOutput s t v out := by
  have hbyte := byte_congr hline
  obtain ⟨hoff, hon⟩ := h
  rw [hcfg, hpointer] at hoff
  rw [hcfg, hpointer, hsize] at hon
  refine ⟨fun hl => ?_, fun hl => ?_⟩
  · obtain ⟨hout, hptr, hbytes⟩ := hoff hl
    exact ⟨hout, hptr, fun a => (hbytes a).trans (hbyte a)⟩
  · obtain ⟨hentry, hbytes, hptr, hout⟩ := hon hl
    exact ⟨hentry, fun a ha => (hbytes a ha).trans (hbyte a), hptr, hout⟩

theorem fmStage_frame {w t : State} {v out : Word} (h : w.fmStage v = (out, t)) :
    t = { w with mem := t.mem, run := { w.run with lpfmWp := t.run.lpfmWp } } := by
  unfold State.fmStage at h
  split at h
  · cases h
    rfl
  · cases h
    rfl

/-- The stages of a sample step in IQ mode, one after the other (rule R160). -/
theorem iqStages_stages {s t : State} {n out : Word} {z : Cx} (h : s.iqStages n z = (out, t)) :
    ∃ r w y v, s.ifStage (s.derotated n z) = (y, r) ∧ Discriminated r w n y v ∧ w.fmStage v = (out, t) :=
  ⟨_, _, _, _, rfl, discriminate_discriminated rfl, h⟩

/-! ### The carrier loop -/

/-- The lock detector (rule R170) sets LOCKED and nothing else. -/
theorem lockUpdate_locked (s : State) : s.lockUpdate = s.setLocked
    (if s.status.locked = true ∧ fgt (fabs s.run.ddf) s.inst.fLock = true then false
      else if s.status.locked = false ∧ flt (fabs s.run.ddf) s.inst.fLock = true then true
      else s.status.locked) := by
  simp only [State.lockUpdate, Bool.and_eq_true, Bool.not_eq_true']
  split
  · rfl
  · split <;> rfl

end Sys2Proof.Machine
end

section
/-! SUPPORT. The statements about the sample step and the carrier loop. -/

namespace Sys2Proof.Scope

open Machine

/-- Settles O27: the step takes one frame and appends its sample (`demodStep_real`). -/
theorem demodStepRealCompletes : Obligations.DemodStepRealCompletes := by
  intro s hf hr he hiq hn
  have hstep := demodStep_real (s := s.beginCommand) hiq he hn
  refine ⟨_, _, exec_demodStep_some hf hr hstep, (demodStep_some hstep).completed, readReal_eq s.beginCommand _, rfl,
    readWord_appendSample { s.beginCommand with srcPos := s.srcPos + 1 } s.run.sampleIn _, rfl, rfl, fun id a h => ?_⟩
  exact s.beginCommand.byte_writeWords .bufs id _ [_] a h

/-- Settles O29: what each stage does is `ifStage_output`, `discriminate_discriminated` and `fmStage_output`; no later
stage touches what an earlier one wrote or read. -/
theorem discriminatorTakesPhaseStep : Obligations.DiscriminatorTakesPhaseStep := by
  refine ⟨fun s n => ⟨derot_finite n, derot_not_finite n⟩, fun s t n out z h => ?_⟩
  obtain ⟨r, w, y, v, hif, hphase, hfm⟩ := iqStages_stages h
  have hr := ifStage_frame hif
  have hw : w = { s with mem := w.mem, run := r.run } := by rw [hphase.frame, hr]
  have ht : t = { s with mem := t.mem, run := { r.run with lpfmWp := t.run.lpfmWp } } := by rw [fmStage_frame hfm, hw]
  have hrs {id : MemId} (hlp : id ≠ .lpiq) : r.mem.get id = s.mem.get id := by
    rw [← get_ifStage s (s.derotated n z) hlp, hif]
  have htw {id : MemId} (hlp : id ≠ .lpfm) : t.mem.get id = w.mem.get id := by rw [← get_fmStage w v hlp, hfm]
  have htr {id : MemId} (hiq : id ≠ .iqbuf) (hdc : id ≠ .dcbuf) (hlp : id ≠ .lpfm) : t.mem.get id = r.mem.get id :=
    (htw hlp).trans (hphase.get id hiq hdc)
  have hfree : t.free = w.free := by rw [ht, hw]
  have hpointer : t.run.lpiqWp = r.run.lpiqWp := by rw [ht]
  have hcirc (p : Word) : r.circ p = p.toNat % s.size.m.toNat := by rw [State.circ, hr]
  have hifOut := (ifStage_output hif).later (t := t) (by rw [ht, hr]) (by rw [ht, hr]) hpointer
    (htr (by decide) (by decide) (by decide)) (htr (by decide) (by decide) (by decide))
  have hfmOut := (fmStage_output hfm).earlier (s := s) (by rw [hw]) (by rw [hw]) (by rw [hw, hr])
    ((hphase.get .lpfm (by decide) (by decide)).trans (hrs (by decide)))
  refine ⟨s.derotated n z, y, v, rfl, hifOut.off, hifOut.on, ?output, ?sample, fun a ha => ?sampleBytes, ?entry,
    fun a ha => ?entryBytes, hfmOut.off, hfmOut.on,
    fun id a hlpiq hiq hdc hlpfm => byte_congr ((htr hiq hdc hlpfm).trans (hrs hlpiq)) a, ?frame⟩
  case output =>
    have hprevious := readCx_of_get (hrs (id := .iqbuf) (by decide)) (by rw [hr]) (r.circ (n - 1#32))
    rw [hphase.output, hprevious, hcirc, State.discriminator, hr]
  case sample =>
    rw [← hcirc]
    exact (readCx_of_get (htw (by decide)) hfree _).trans hphase.sample
  case sampleBytes =>
    rw [← hcirc] at ha
    exact (byte_congr (htw (by decide)) a).trans ((hphase.sampleBytes a ha).trans (byte_congr (hrs (by decide)) a))
  case entry =>
    rw [← hcirc]
    exact (readWord_of_get (htw (by decide)) hfree _).trans hphase.entry
  case entryBytes =>
    rw [← hcirc] at ha
    exact (byte_congr (htw (by decide)) a).trans ((hphase.entryBytes a ha).trans (byte_congr (hrs (by decide)) a))
  case frame =>
    rw [hpointer]
    exact ht.trans (by rw [hr])

/-- Settles O30: DF is written, and the lock detector sees the DDF that stands (`lockUpdate_locked`). -/
theorem carrierLoop : Obligations.CarrierLoop := fun _ => lockUpdate_locked _

end Sys2Proof.Scope
end

section
/-! SUPPORT. The peak search (rule R191): a fold that keeps the first maximum of what it has seen. -/

namespace Sys2Proof.Machine

theorem flt_eq_true_iff {a b : Word} :
    flt a b = true ↔ isNaN a = false ∧ isNaN b = false ∧ forder a < forder b := by
  simp [flt, and_assoc]

theorem flt_trans {a b c : Word} (hab : flt a b = true) (hbc : flt b c = true) : flt a c = true := by
  obtain ⟨ha, -, hlt⟩ := flt_eq_true_iff.1 hab
  obtain ⟨-, hc, hlt'⟩ := flt_eq_true_iff.1 hbc
  exact flt_eq_true_iff.2 ⟨ha, hc, hlt.trans hlt'⟩

theorem flt_irrefl (a : Word) : flt a a = false := by simp [flt]

/-- What does not exceed a value is a NaN or below all that exceed the value. -/
theorem nan_or_flt_of_not_flt {a b c : Word} (hab : flt a b = false) (hac : flt a c = true) :
    isNaN b = true ∨ flt b c = true := by
  obtain ⟨ha, hc, hlt⟩ := flt_eq_true_iff.1 hac
  cases hb : isNaN b with
  | true => exact .inl rfl
  | false =>
    have hle : forder b ≤ forder a := by simpa [flt, ha, hb] using hab
    exact .inr (flt_eq_true_iff.2 ⟨hb, hc, hle.trans_lt hlt⟩)

/-- `p` holds the first maximum among the squares of the values at the indices from `lo` to before `hi` (rule R191). -/
structure FirstMaximum (re : Nat → Word) (lo hi : Nat) (p : Peak) : Prop where
  bound : ∀ i, lo ≤ i → i < hi → fgt (fmul (re i) (re i)) p.mx2 = false
  absent : p.mp = none → p.mx2 = fzero
  present : ∀ m, p.mp = some m → lo ≤ m ∧ m < hi ∧ p.mx = re m ∧ p.mx2 = fmul p.mx p.mx ∧ fgt p.mx2 fzero = true
    ∧ ∀ i, lo ≤ i → i < m → isNaN (fmul (re i) (re i)) = true ∨ fgt p.mx2 (fmul (re i) (re i)) = true

theorem FirstMaximum.init (re : Nat → Word) (lo : Nat) : FirstMaximum re lo lo ⟨fzero, fzero, none⟩ :=
  ⟨fun _ hlo hhi => absurd hhi (Nat.not_lt.2 hlo), fun _ => rfl, fun _ h => nomatch h⟩

/-- A maximum that a value exceeds is +0 or above it, and so that value is above +0. -/
theorem FirstMaximum.fgt_fzero {re : Nat → Word} {lo hi : Nat} {p : Peak} (h : FirstMaximum re lo hi p) {v : Word}
    (hv : fgt v p.mx2 = true) : fgt v fzero = true := by
  cases hmp : p.mp with
  | none => rwa [← h.absent hmp]
  | some m =>
    obtain ⟨-, -, -, -, hpos, -⟩ := h.present m hmp
    exact flt_trans hpos hv

theorem FirstMaximum.see {re : Nat → Word} {lo hi : Nat} {p : Peak} (h : FirstMaximum re lo hi p) (hlo : lo ≤ hi) :
    FirstMaximum re lo (hi + 1) (p.see hi (re hi)) := by
  unfold Peak.see
  split
  · rename_i hwins
    refine ⟨fun i hi' hlt => ?_, fun hnone => (nomatch hnone), fun m hm => ?_⟩
    · rcases Nat.lt_succ_iff_lt_or_eq.1 hlt with hlt | rfl
      · exact Bool.eq_false_iff.2 fun habove =>
          absurd (flt_trans hwins habove) (by rw [Bool.not_eq_true]; exact h.bound i hi' hlt)
      · exact flt_irrefl _
    · obtain rfl : hi = m := Option.some.inj hm
      exact ⟨hlo, Nat.lt_succ_self _, rfl, rfl, h.fgt_fzero hwins,
        fun i hi' hlt => nan_or_flt_of_not_flt (h.bound i hi' hlt) hwins⟩
  · rename_i hloses
    refine ⟨fun i hi' hlt => ?_, h.absent, fun m hm => ?_⟩
    · rcases Nat.lt_succ_iff_lt_or_eq.1 hlt with hlt | rfl
      · exact h.bound i hi' hlt
      · exact Bool.eq_false_iff.2 hloses
    · obtain ⟨hle, hlt, hrest⟩ := h.present m hm
      exact ⟨hle, hlt.trans (Nat.lt_succ_self _), hrest⟩

theorem firstMaximum_fold (re : Nat → Word) (lo n : Nat) : FirstMaximum re lo (lo + n)
    ((List.range n).foldl (fun p j => p.see (lo + j) (re (lo + j))) ⟨fzero, fzero, none⟩) := by
  induction n with
  | zero => exact .init re lo
  | succ n ih =>
    rw [List.range_succ, List.foldl_concat]
    exact ih.see (Nat.le_add_right lo n)

theorem findPeak_firstMaximum (s : State) : FirstMaximum (fun i => (s.readCx .cx i).re) (s.size.l.toNat - 1)
    (s.size.l.toNat - 1 + (s.size.k.toNat + 1)) s.findPeak := firstMaximum_fold _ _ _

end Sys2Proof.Machine
end

section
/-! SUPPORT. The search comes to an answer whatever the HOST does, and HEADCMP (rules R198, R201, R202, R298). -/

namespace Sys2Proof.Machine

/-! ### FIND_HDR -/

/-- A command's own rule that does not stop the model gives a next state. -/
theorem finishCommand_answers {e : CmdEnd} (h : ∀ f, e ≠ .stop f) (w : Word) (s : State) :
    ∃ t, finishCommand w s e = .next t := by
  cases e with
  | ret code u => exact ⟨_, rfl⟩
  | raise c => exact ⟨_, rfl⟩
  | abandoned u => exact ⟨_, rfl⟩
  | stop f => exact absurd rfl (h f)

/-- `t` comes from `s` by one iteration of the search that found the signal present, took a sample and goes on: NOSIG,
below its limit before, is one more, and nothing that bounds the search has changed (rules R201, R202). -/
structure SearchedOn (s t : State) : Prop where
  busy : t.status.busy = s.status.busy
  limit : t.lossLimit = s.lossLimit
  nosig : t.run.nosig = s.run.nosig + 1#32
  below : s.run.nosig.toNat < s.lossLimit

theorem BusyAccess.searchSame {s t : State} (h : BusyAccess { s with during := t.during } t) :
    t.status.busy = s.status.busy ∧ t.lossLimit = s.lossLimit ∧ t.run = s.run := by
  obtain ⟨a, f, c, i, r, n, heq⟩ := h
  rw [heq]
  exact ⟨rfl, rfl, rfl⟩

/-- One iteration of the loop ends the command with an answer, or the loop goes on: whether the HOST resets the block or
not, and whatever else it does in the moment before the sample step (rules R74, R202, R281). -/
theorem searchLoop_iteration (thres : Word) (maxerr fuel : Nat) {s : State} (hb : s.status.busy = true) :
    (∀ f, searchLoop thres maxerr (fuel + 1) s ≠ .stop f)
      ∨ ∃ t, searchLoop thres maxerr (fuel + 1) s = searchLoop thres maxerr fuel t ∧ SearchedOn s t := by
  rcases hostMoment_cases s hb with ⟨t, hmoment, haccess⟩ | ⟨t, hmoment, -⟩
  · rw [searchLoop, hmoment]
    dsimp only
    obtain ⟨hbusy, hlimit, hrun⟩ := haccess.searchSame
    split
    · exact .inl fun f h => nomatch h
    · rename_i hsig
      have hbelow := ((signalLost_eq_false_iff t).1 (Bool.eq_false_iff.2 hsig)).2
      rw [hrun, hlimit] at hbelow
      obtain ⟨⟨sample, u⟩, hstep⟩ : ∃ p, demodStep t = p := ⟨_, rfl⟩
      rw [hstep]
      cases sample with
      | none => exact .inl fun f h => nomatch h
      | some v =>
        have hsample := SearchKept.of_sample hstep
        dsimp only
        rcases afterSample_cases u thres maxerr with ⟨c, hc, -⟩ | ⟨w, hw, hkept, hnosig, -⟩
        · rw [hc]
          exact .inl fun f h => nomatch h
        · rw [hw]
          have hsw := hsample.trans hkept
          refine .inr ⟨w, rfl, hsw.busy.trans hbusy, hsw.lossLimit.trans hlimit, ?_, hbelow⟩
          rw [hnosig, (demodStep_some hstep).kept.nosig, hrun]
  · rw [searchLoop, hmoment]
    exact .inl fun f h => nomatch h

/-- The search never runs out of fuel: NOSIG rises with every iteration that goes on (rules R201, R298). -/
theorem searchLoop_answers (thres : Word) (maxerr : Nat) {fuel : Nat} {s : State} (hb : s.status.busy = true)
    (hlim : s.lossLimit < 2 ^ 32) (hfuel : s.lossLimit - s.run.nosig.toNat < fuel) (f : Fault) :
    searchLoop thres maxerr fuel s ≠ .stop f := by
  induction fuel generalizing s with
  | zero => exact absurd hfuel (Nat.not_lt_zero _)
  | succ fuel ih =>
    rcases searchLoop_iteration thres maxerr fuel hb with h | ⟨t, h, hon⟩
    · exact h f
    · have hnosig : t.run.nosig.toNat = s.run.nosig.toNat + 1 := by
        have hbelow := hon.below
        rw [hon.nosig, BitVec.toNat_add]
        exact Nat.mod_eq_of_lt (by simp; omega)
      have hless : t.lossLimit - t.run.nosig.toNat < fuel := by
        have hbelow := hon.below
        rw [hon.limit, hnosig]
        omega
      rw [h]
      exact ih (hon.busy.trans hb) (hon.limit.trans_lt hlim) hless

/-! ### HEADCMP -/

theorem mismatchCount_le (s : State) : s.mismatchCount ≤ s.cfg.hdrLen.toNat :=
  List.countP_le_length.trans_eq List.length_range

/-- HEADCMP writes RES0 and RES1 (rule R198). -/
theorem headcmpBody_eq (t : State) : headcmpBody t
    = .ret rcOk (t.setRes01 (BitVec.ofNat 32 t.mismatchCount) (boolWord (flt t.run.mv fzero))) := by
  rw [headcmpBody, headCmp_count]
  rfl

/-- A command that ends with memories, run-time registers, STATUS, RESULT and RES written. -/
theorem kept_of_written (s : State) (m : Mems) (r : Run) (st : Status) (code : Word) (q : Quad) :
    Kept s { s.beginCommand with mem := m, run := r, status := st, result := code, res := q } :=
  ⟨⟨rfl, rfl, rfl, rfl, rfl, rfl, rfl, rfl, rfl⟩, rfl, rfl, rfl⟩

theorem setRes01_completed (s : State) (v0 v1 : Word) :
    Completed 0#32 s ((s.beginCommand.setRes01 v0 v1).endCommand rcOk) :=
  ⟨kept_of_written s s.mem s.run _ _ _, rfl, rfl⟩

end Sys2Proof.Machine
end

section
/-! SUPPORT. The statements about the peak search, HEADCMP and the end of FIND_HDR. -/

namespace Sys2Proof.Scope

open Machine

/-- Settles O43: the fold's invariant at its end (`findPeak_firstMaximum`). -/
theorem peakIsFirstMaximum : Obligations.PeakIsFirstMaximum := by
  intro s
  have h := findPeak_firstMaximum s
  refine ⟨fun i hlo hhi => h.bound i hlo (Nat.lt_succ_of_le hhi), h.absent, fun m hm => ?_⟩
  obtain ⟨hlo, hhi, hrest⟩ := h.present m hm
  exact ⟨hlo, Nat.le_of_lt_succ hhi, hrest⟩

/-- Settles O45: RES0 and RES1 are all that HEADCMP writes (`headcmpBody_eq`). -/
theorem headcmpCompletes : Obligations.HeadcmpCompletes := by
  intro s hf hu
  have hrun : s.Admits .headcmp := ⟨hf, rfl, decide_eq_true hu⟩
  have hexec : exec .headcmp s = _ := hrun.run headcmpBody
  rw [headcmpBody_eq, finishCommand_ret] at hexec
  refine ⟨_, hexec, setRes01_completed s _ _, rfl, ?_, rfl, rfl, fun _ _ => rfl⟩
  exact (Nat.mod_le _ _).trans (mismatchCount_le s.beginCommand)

/-- Settles O46: the search does not stop the model (`searchLoop_answers`). -/
theorem findHdrAlwaysAnswers : Obligations.FindHdrAlwaysAnswers := by
  intro s hf hr hnan hneg hlim
  rw [exec_findHdr_search hf hr hnan hneg]
  exact finishCommand_answers
    (searchLoop_answers _ _ (s := s.beginCommand.startSearch) rfl hlim (Nat.lt_succ_self _)) _ _

end Sys2Proof.Scope
end

section
/-! SUPPORT. The correlation pass stage by stage (rules R185 to R193): what each stage leaves in XN, X, Z and CX, and
what it leaves alone. -/

namespace Sys2Proof.Machine

/-! ### Entries of complex buffers -/

theorem readCxs_length (s : State) (id : MemId) (n : Nat) : (s.readCxs id n).length = n := by simp [State.readCxs]

theorem getD_readCxs (s : State) (id : MemId) {n i : Nat} (hi : i < n) :
    (s.readCxs id n).getD i czero = s.readCx id i := by
  simp [State.readCxs, List.getD_eq_getElem?_getD, hi]

/-- Two lists of the same length with the same entries. -/
theorem cxs_ext {n : Nat} {b c : List Cx} (hb : b.length = n) (hc : c.length = n)
    (h : ∀ i, i < n → b.getD i czero = c.getD i czero) : b = c := by
  refine List.ext_getElem (hb.trans hc.symm) fun i hi hi' => ?_
  rw [← List.getD_eq_getElem b czero hi, ← List.getD_eq_getElem c czero hi']
  exact h i (hb ▸ hi)

/-- A buffer reads as the list just written over it. -/
theorem readCxs_writeCxs_self (s : State) (id : MemId) {n : Nat} {cs : List Cx} (hn : cs.length = n) :
    (s.writeCxs id 0 cs).readCxs id n = cs := by
  refine cxs_ext (readCxs_length _ _ _) hn fun i hi => ?_
  rw [getD_readCxs _ _ hi, State.readCx_writeCxs, if_pos ⟨rfl, Nat.zero_le i, by omega⟩, Nat.sub_zero]

theorem readCxs_of_get {s t : State} {id : MemId} (hmem : t.mem.get id = s.mem.get id) (hfree : t.free = s.free)
    (n : Nat) : t.readCxs id n = s.readCxs id n :=
  List.map_congr_left fun i _ => readCx_of_get hmem hfree i

/-- Bin 0 cleared. -/
theorem readCxs_clearBin (s : State) (id : MemId) (n : Nat) :
    (s.writeCxs id 0 [czero]).readCxs id n = (s.readCxs id n).set 0 czero := by
  refine cxs_ext (readCxs_length _ _ _) (by simp [State.readCxs]) fun i hi => ?_
  rw [getD_readCxs _ _ hi, State.readCx_writeCxs]
  cases i with
  | zero => simp [State.readCxs, List.getD_eq_getElem?_getD, hi]
  | succ i =>
    rw [if_neg (by simp), ← getD_readCxs s id hi]
    simp [List.getD_eq_getElem?_getD]

/-- The transform depends on the sizes and the twiddles. -/
theorem transform_of_get {s t : State} (h : MemSpec s t) (htw : t.mem.get .tw = s.mem.get .tw) :
    t.transform = s.transform := by
  funext b
  simp only [State.transform, State.nSize, h.size, readCxs_of_get htw h.free]

/-! ### What a pass leaves alone -/

/-- The number of words of a memory that a pass uses, in a session of size `n`. -/
def passWords (n : Nat) (id : MemId) : Nat := if id = .xn then n else 2 * n

/-- `t` differs from `s` in the first words of XN, X, Z and CX at most, those that a pass uses (rule R185). -/
structure PassFrame (s t : State) : Prop extends MemSpec s t where
  get : ∀ id, corrMem id = false → t.mem.get id = s.mem.get id
  spare : ∀ id a, corrMem id = true → 4 * passWords s.nSize id ≤ a → t.byte id a = s.byte id a

theorem PassFrame.nSize {s t : State} (h : PassFrame s t) : t.nSize = s.nSize := by
  rw [State.nSize, State.nSize, h.size]

theorem PassFrame.trans {s t u : State} (h : PassFrame s t) (k : PassFrame t u) : PassFrame s u where
  toMemSpec := h.toMemSpec.trans k.toMemSpec
  get id hid := (k.get id hid).trans (h.get id hid)
  spare id a hid ha := (k.spare id a hid (by rwa [h.nSize])).trans (h.spare id a hid ha)

theorem PassFrame.writeWords (s : State) {m : MemId} {ws : List Word} (hm : corrMem m = true)
    (hlen : ws.length ≤ passWords s.nSize m) : PassFrame s (s.writeWords m 0 ws) where
  toMemSpec := .writeWords s m 0 ws
  get id hid := get_writeWords s 0 ws (fun h => by rw [h, hm] at hid; cases hid)
  spare id a _ ha := s.byte_writeWords m id 0 ws a (by
    by_cases h : id = m
    · subst h
      exact .inr (.inr (by omega))
    · exact .inl h)

theorem PassFrame.writeCxs (s : State) {m : MemId} {cs : List Cx} (hm : corrMem m = true) (hxn : m ≠ .xn)
    (hlen : cs.length ≤ s.nSize) : PassFrame s (s.writeCxs m 0 cs) :=
  .writeWords s hm (by rw [flatMap_words_length, passWords, if_neg hxn]; omega)

theorem PassFrame.transform {s t : State} (h : PassFrame s t) : t.transform = s.transform :=
  transform_of_get h.toMemSpec (h.get .tw rfl)

/-! ### The stages -/

/-- `t` comes from `s` by stages of a pass: XN holds `signal` and X holds `spectrum`. -/
structure Spectrum (s t : State) (signal : Nat → Word) (spectrum : List Cx) : Prop extends PassFrame s t where
  xn : ∀ i, i < s.nSize → t.readWord .xn i = signal i
  x : t.readCxs .x s.nSize = spectrum

/-- The window of rule R187 at index `i`, zero-padded. -/
def State.windowAt (s : State) (buf : MemId) (i : Nat) : Word :=
  if i < s.windowLen then s.readAt buf (s.windowPos i) else fzero

/-- The transform of the window (rule R187). -/
def State.windowSpectrum (s : State) (buf : MemId) : List Cx :=
  s.transform ((List.range s.nSize).map (fun i => ⟨s.windowAt buf i, fzero⟩))

/-- Step 1 leaves the window and its transform (rule R187). -/
theorem extract_spectrum (s : State) (buf : MemId) :
    Spectrum s (s.extract buf) (s.windowAt buf) (s.windowSpectrum buf) := by
  have hlen : (s.windowFrame buf).length = s.nSize := by simp [State.windowFrame]
  have hxn : PassFrame s (s.writeWords .xn 0 (s.windowFrame buf)) := .writeWords s rfl hlen.le
  have hread (i : Nat) (hi : i < s.nSize) :
      (s.writeWords .xn 0 (s.windowFrame buf)).readWord .xn i = s.windowAt buf i := by
    rw [State.readWord_writeWords, if_pos ⟨rfl, Nat.zero_le i, by omega⟩]
    simp [State.windowFrame, State.windowAt, List.getD_eq_getElem?_getD, hi]
  have hframe : (s.writeWords .xn 0 (s.windowFrame buf)).paddedFrame s.nSize
      = (List.range s.nSize).map (fun i => ⟨s.windowAt buf i, fzero⟩) :=
    List.map_congr_left fun i hi => by
      have hlt : i < s.nSize := List.mem_range.1 hi
      rw [if_pos hlt, hread i hlt]
  have hspec : (s.writeWords .xn 0 (s.windowFrame buf)).transform
      ((s.writeWords .xn 0 (s.windowFrame buf)).paddedFrame s.nSize) = s.windowSpectrum buf := by
    rw [hxn.transform, hframe]
    rfl
  have hspecLen : (s.windowSpectrum buf).length = s.nSize := by simp [State.windowSpectrum]
  rw [State.extract, State.forwardReal, hspec]
  refine ⟨hxn.trans (.writeCxs _ rfl (by decide) hspecLen.le), fun i hi => ?_, readCxs_writeCxs_self _ _ hspecLen⟩
  exact (readWord_of_get (get_writeCxs _ 0 _ (by decide)) rfl i).trans (hread i hi)

/-- The time signal rebuilt from a spectrum (rule R188). -/
def State.rebuiltAt (s : State) (spectrum : List Cx) (i : Nat) : Word :=
  fdiv ((s.transform (spectrum.map conj)).getD i czero).re (i2f s.nSize)

/-- The inverse of a buffer that holds `cs`, written over CX (rule R106). -/
theorem PassFrame.inverse {s t : State} (h : PassFrame s t) {src : MemId} {cs : List Cx}
    (hsrc : t.readCxs src s.nSize = cs) : PassFrame s (t.inverse .cx src)
      ∧ (t.inverse .cx src).readCxs .cx s.nSize = s.transform (cs.map conj) := by
  have hlen : (s.transform (cs.map conj)).length = s.nSize := by
    rw [transform_length, List.length_map, ← hsrc, readCxs_length]
  rw [State.inverse, h.nSize, h.transform, hsrc]
  exact ⟨h.trans (.writeCxs t rfl (by decide) (by rw [hlen, h.nSize])), readCxs_writeCxs_self t .cx hlen⟩

/-- DC removal clears bin 0 and rebuilds the signal (rule R188). -/
theorem removeDc_spectrum {s t : State} {signal : Nat → Word} {spectrum : List Cx} (h : Spectrum s t signal spectrum)
    (hn : 1 ≤ s.nSize) : Spectrum s t.removeDc (s.rebuiltAt (spectrum.set 0 czero)) (spectrum.set 0 czero) := by
  have hclear : PassFrame s (t.writeCxs .x 0 [czero]) :=
    h.toPassFrame.trans (.writeCxs t rfl (by decide) (by simpa [h.nSize] using hn))
  have hx : (t.writeCxs .x 0 [czero]).readCxs .x s.nSize = spectrum.set 0 czero := by rw [readCxs_clearBin, h.x]
  obtain ⟨hw, hcx⟩ := hclear.inverse hx
  have hlen : (s.transform ((spectrum.set 0 czero).map conj)).length = s.nSize := by rw [← hcx, readCxs_length]
  have hremoved : t.removeDc = ((t.writeCxs .x 0 [czero]).inverse .cx .x).writeWords .xn 0
      ((s.transform ((spectrum.set 0 czero).map conj)).map (fun c => fdiv c.re (i2f s.nSize))) := by
    rw [← hcx, ← hw.nSize]
    rfl
  rw [hremoved]
  refine ⟨hw.trans (.writeWords _ rfl ?_), fun i hi => ?_, ?_⟩
  · rw [List.length_map, hlen, hw.nSize]
    exact le_rfl
  · rw [State.readWord_writeWords, if_pos ⟨rfl, Nat.zero_le i, by rw [List.length_map, hlen]; omega⟩, Nat.sub_zero,
      List.getD_eq_getElem _ _ (by rwa [List.length_map, hlen]), List.getElem_map, State.rebuiltAt,
      List.getD_eq_getElem _ _ (by rwa [hlen])]
  · rw [readCxs_of_get (get_writeWords _ 0 _ (by decide)) rfl, ← hx]
    exact readCxs_of_get (get_writeCxs _ 0 _ (by decide)) rfl _

/-- The product of the spectrum with that of the template (rule R190). -/
def State.templateProduct (s : State) (spectrum : List Cx) : List Cx :=
  (List.range s.nSize).map (fun k => cmul (spectrum.getD k czero) (s.readCx .fm k))

/-- A pass that has correlated `spectrum` (rule R190). -/
structure Correlated (s t : State) (signal : Nat → Word) (spectrum : List Cx) : Prop
    extends Spectrum s t signal spectrum where
  z : t.readCxs .z s.nSize = s.templateProduct spectrum
  cx : t.readCxs .cx s.nSize = s.transform ((s.templateProduct spectrum).map conj)

/-- Step 3 leaves the product in Z and its inverse in CX (rule R190). -/
theorem correlate_correlated {s t : State} {signal : Nat → Word} {spectrum : List Cx}
    (h : Spectrum s t signal spectrum) : Correlated s t.correlate signal spectrum := by
  have hspecLen : spectrum.length = s.nSize := by rw [← h.x, readCxs_length]
  have hlen : (s.templateProduct spectrum).length = s.nSize := by simp [State.templateProduct]
  have hproduct : List.zipWith cmul (t.readCxs .x t.nSize) (t.readCxs .fm t.nSize) = s.templateProduct spectrum := by
    rw [h.nSize, h.x, readCxs_of_get (h.get .fm rfl) h.free]
    refine cxs_ext (n := s.nSize) (by simp [hspecLen, readCxs_length]) hlen fun i hi => ?_
    simp [State.templateProduct, State.readCxs, List.getD_eq_getElem?_getD, hi, hspecLen]
  have hwritten : PassFrame s (t.spectrumProduct .z .x) := by
    rw [State.spectrumProduct, hproduct]
    exact h.toPassFrame.trans (.writeCxs t rfl (by decide) (by rw [hlen, h.nSize]))
  have hz : (t.spectrumProduct .z .x).readCxs .z s.nSize = s.templateProduct spectrum := by
    rw [State.spectrumProduct, hproduct, readCxs_writeCxs_self t .z hlen]
  obtain ⟨hframe, hcx⟩ := hwritten.inverse hz
  have hget {id : MemId} (hid : id ≠ .cx) (hid' : id ≠ .z) : t.correlate.mem.get id = t.mem.get id :=
    (get_writeCxs _ 0 _ hid).trans (get_writeCxs t 0 _ hid')
  have hfree : t.correlate.free = t.free := (correlate_spec t).free
  refine ⟨⟨hframe, fun i hi => ?xn, ?x⟩, ?z, hcx⟩
  case xn => rw [readWord_of_get (hget (by decide) (by decide)) hfree, h.xn i hi]
  case x => rw [readCxs_of_get (hget (by decide) (by decide)) hfree, h.x]
  case z =>
    rw [← hz]
    exact readCxs_of_get (get_writeCxs _ 0 _ (by decide)) rfl _

/-- The spectrum that a pass correlates (rules R187, R188). -/
def State.passSpectrum (s : State) (buf : MemId) (dcz : Bool) : List Cx :=
  if dcz = true then (s.windowSpectrum buf).set 0 czero else s.windowSpectrum buf

/-- The time signal that a pass leaves in XN (rules R187, R188). -/
def State.passSignal (s : State) (buf : MemId) (dcz : Bool) (i : Nat) : Word :=
  if dcz = true then s.rebuiltAt (s.passSpectrum buf dcz) i else s.windowAt buf i

/-- Steps 1 and 2, with DC removal or without (rules R187, R188). -/
theorem passStages_spectrum (s : State) (buf : MemId) (dcz : Bool) (hn : 1 ≤ s.nSize) :
    Spectrum s (if dcz = true then (s.extract buf).removeDc else s.extract buf) (s.passSignal buf dcz)
      (s.passSpectrum buf dcz) := by
  have h := extract_spectrum s buf
  cases dcz with
  | false =>
    have hsignal : s.passSignal buf false = s.windowAt buf := funext fun _ => if_neg Bool.false_ne_true
    rwa [hsignal]
  | true =>
    have hsignal : s.passSignal buf true = s.rebuiltAt ((s.windowSpectrum buf).set 0 czero) :=
      funext fun _ => if_pos rfl
    rw [hsignal]
    exact removeDc_spectrum h hn

/-- What a pass leaves (rules R185 to R190). -/
theorem corrPass_correlated {s u : State} {buf : MemId} {dcz : Bool} {r : PassResult} (hn : 1 ≤ s.nSize)
    (h : s.corrPass buf dcz = (r, u)) : Correlated s u (s.passSignal buf dcz) (s.passSpectrum buf dcz) := by
  obtain ⟨-, rfl⟩ := Prod.mk.inj h
  exact correlate_correlated (passStages_spectrum s buf dcz hn)

/-- The mean of the window (rule R188). -/
theorem windowMean_extract {s : State} (buf : MemId) (hn : 1 ≤ s.nSize) :
    (s.extract buf).windowMean = fdiv ((s.windowSpectrum buf).getD 0 czero).re (i2f s.windowLen) := by
  have h := extract_spectrum s buf
  rw [← h.x, getD_readCxs _ _ hn, State.windowMean, State.windowLen, State.lSize, h.size]
  rfl

/-! ### What a pass yields (rules R191 to R193) -/

theorem judge_of_none {u : State} (h : u.findPeak.mp = none) (dc : Word) : u.judge dc = .noPeak dc := by
  rw [State.judge, h]

theorem judge_of_edge {u : State} {mp : Nat} (h : u.findPeak.mp = some mp)
    (hedge : mp = u.lSize - 1 ∨ mp = u.windowLen - 1) (dc : Word) : u.judge dc = .boundary dc mp := by
  rw [State.judge, h]
  exact if_pos hedge

theorem judge_of_inside {u : State} {mp : Nat} (h : u.findPeak.mp = some mp)
    (hinside : ¬ (mp = u.lSize - 1 ∨ mp = u.windowLen - 1)) (dc : Word) :
    u.judge dc = .ok dc mp (u.windowPos mp) (u.score u.findPeak.mx mp) := by
  rw [State.judge, h]
  exact if_neg hinside

/-- A pass moves no window. -/
theorem MemSpec.window {s u : State} (h : MemSpec s u) :
    u.lSize = s.lSize ∧ u.windowLen = s.windowLen ∧ u.windowPos = s.windowPos := by
  have hlen : u.windowLen = s.windowLen := by rw [State.windowLen, State.windowLen, State.lSize, State.lSize, h.size]
  refine ⟨by rw [State.lSize, State.lSize, h.size], hlen, funext fun i => ?_⟩
  rw [State.windowPos, State.windowPos, hlen, h.run]

theorem correlationPass : CorrelationPass := by
  intro s u buf dcz r _ hn hpass
  have h := corrPass_correlated hn hpass
  have hr : r = u.judge ((s.extract buf).windowMean) := by
    obtain ⟨hr, rfl⟩ := Prod.mk.inj hpass
    exact hr.symm
  rw [windowMean_extract buf hn] at hr
  obtain ⟨hl, hlen, hpos⟩ := h.window
  refine ⟨fun i hi => ⟨h.xn i hi, ?x, ?z, ?cx⟩, h.eq, fun id a hid => byte_congr (h.get id hid) a, h.spare, ?result⟩
  case x => exact (getD_readCxs u .x hi).symm.trans (congrArg (·.getD i czero) h.x)
  case z => exact (getD_readCxs u .z hi).symm.trans (congrArg (·.getD i czero) h.z)
  case cx => exact (getD_readCxs u .cx hi).symm.trans (congrArg (·.getD i czero) h.cx)
  case result =>
    rw [hr]
    cases hmp : u.findPeak.mp with
    | none => exact judge_of_none hmp _
    | some mp =>
      dsimp only
      split
      · rename_i hedge
        exact judge_of_edge hmp (by rwa [hl, hlen]) _
      · rename_i hinside
        rw [judge_of_inside hmp (by rwa [hl, hlen]), hpos, State.score, h.nSize, State.localEnergy, hl]
        rfl

end Sys2Proof.Machine
end

section
/-! SUPPORT. Which pass stands (rules R194 to R196), and CORR_STEP (rules R186, R194, R197). -/

namespace Sys2Proof.Machine

/-! ### The pass that stands -/

theorem exceeds_iff (r : PassResult) (thres : Word) : r.exceeds thres = true ↔
    ∃ dc mp mpos score, r = .ok dc mp mpos score ∧ fgt (fabs score) thres = true := by
  cases r with
  | noPeak dc => simp [PassResult.exceeds]
  | boundary dc mp => simp [PassResult.exceeds]
  | ok dc mp mpos score => simp [PassResult.exceeds]

theorem tracking_iff (c : Cfg) : c.tracking = true ↔ c.iq = true ∧ c.dcMode = true := Bool.and_eq_true_iff

section
variable {s t u : State} {thres : Word} {r r2 : PassResult} (hfirst : s.corrPass .bufs s.cfg.corrDcz = (r, t))
include hfirst

theorem tracking_of_corrPass : t.cfg.tracking = s.cfg.tracking := by
  have h := corrPass_spec s .bufs s.cfg.corrDcz
  rw [hfirst] at h
  rw [h.cfg]

/-- Outside DC-tracking IQ mode, or above the threshold, the first pass stands and there is no second (rule R195). -/
theorem bestPass_of_first (h : s.cfg.tracking = false ∨ r.exceeds thres = true) : s.bestPass thres = (r, false, t) := by
  simp only [State.bestPass, hfirst, tracking_of_corrPass hfirst]
  rcases h with h | h <;> simp [h]

/-- Otherwise the second pass decides by its own score (rules R195, R196). -/
theorem bestPass_of_retry (htrack : s.cfg.tracking = true) (hlow : r.exceeds thres = false)
    (hretry : t.corrPass .dcbuf true = (r2, u)) :
    s.bestPass thres = if r2.exceeds thres = true then (r2.shift s.cfg.gdelay, true, u) else (r, false, u) := by
  have hcfg : u.cfg = s.cfg := by
    have h := (corrPass_spec s .bufs s.cfg.corrDcz).cfg
    have h' := (corrPass_spec t .dcbuf true).cfg
    rw [hfirst] at h
    rw [hretry] at h'
    exact h'.trans h
  simp [State.bestPass, hfirst, tracking_of_corrPass hfirst, htrack, hlow, hretry, hcfg]

end

/-! ### Where a pass places its peak -/

/-- A peak of the window of `s`: at its edge, or inside it at the position of its index moved by `moved` (rules R192,
R196). -/
def PassResult.PlacedIn (s : State) (moved : Word) : PassResult → Prop
  | .noPeak _ => True
  | .boundary _ mp => mp = s.lSize - 1 ∨ mp = s.windowLen - 1
  | .ok _ mp mpos _ => mpos = s.windowPos mp + moved

theorem MemSpec.placed {s t : State} (h : MemSpec s t) {moved : Word} {r : PassResult} (hr : r.PlacedIn t moved) :
    r.PlacedIn s moved := by
  obtain ⟨hl, hlen, hpos⟩ := h.window
  cases r with
  | noPeak dc => trivial
  | boundary dc mp => rwa [PassResult.PlacedIn, hl, hlen] at hr
  | ok dc mp mpos score => rwa [PassResult.PlacedIn, hpos] at hr

theorem judge_placed (u : State) (dc : Word) : (u.judge dc).PlacedIn u 0#32 := by
  cases hmp : u.findPeak.mp with
  | none =>
    rw [judge_of_none hmp]
    trivial
  | some mp =>
    by_cases hedge : mp = u.lSize - 1 ∨ mp = u.windowLen - 1
    · rw [judge_of_edge hmp hedge]
      exact hedge
    · rw [judge_of_inside hmp hedge]
      exact (BitVec.add_zero _).symm

theorem corrPass_placed (s : State) (buf : MemId) (dcz : Bool) : (s.corrPass buf dcz).1.PlacedIn s 0#32 :=
  (corrPass_spec s buf dcz).placed (judge_placed _ _)

theorem PassResult.PlacedIn.shift {s : State} {r : PassResult} (h : r.PlacedIn s 0#32) (gdelay : Word) :
    (r.shift gdelay).PlacedIn s gdelay := by
  cases r with
  | noPeak dc => trivial
  | boundary dc mp => exact h
  | ok dc mp mpos score => exact congrArg (· + gdelay) (h.trans (BitVec.add_zero _))

/-- The pass that stands is the retry's in DC-tracking IQ mode only, and only that one is moved by GDELAY (rules R195,
R196). -/
theorem bestPass_placed {s u : State} {thres : Word} {r : PassResult} {path : Bool}
    (h : s.bestPass thres = (r, path, u)) : r.PlacedIn s (if path = true then s.cfg.gdelay else 0#32)
      ∧ (path = true → s.cfg.tracking = true) := by
  obtain ⟨⟨first, t⟩, hfirst⟩ : ∃ p, s.corrPass .bufs s.cfg.corrDcz = p := ⟨_, rfl⟩
  have hplaced : first.PlacedIn s 0#32 := by
    have hplaced := corrPass_placed s .bufs s.cfg.corrDcz
    rwa [hfirst] at hplaced
  by_cases hstands : s.cfg.tracking = false ∨ first.exceeds thres = true
  · rw [bestPass_of_first hfirst hstands] at h
    cases h
    exact ⟨hplaced, fun htrue => (nomatch htrue)⟩
  · rw [not_or, Bool.not_eq_false, Bool.not_eq_true] at hstands
    obtain ⟨htrack, hlow⟩ := hstands
    obtain ⟨⟨second, v⟩, hretry⟩ : ∃ p, t.corrPass .dcbuf true = p := ⟨_, rfl⟩
    rw [bestPass_of_retry hfirst htrack hlow hretry] at h
    split at h
    · cases h
      have hsecond : second.PlacedIn s 0#32 := by
        have hmem := corrPass_spec s .bufs s.cfg.corrDcz
        have hplaced := corrPass_placed t .dcbuf true
        rw [hfirst] at hmem
        rw [hretry] at hplaced
        exact hmem.placed hplaced
      exact ⟨hsecond.shift s.cfg.gdelay, fun _ => htrack⟩
    · cases h
      exact ⟨hplaced, fun htrue => (nomatch htrue)⟩

/-! ### CORR_STEP -/

/-- The block that CORR_STEP leaves, `r` being the pass that stands and `u` the block after the passes (rules R186,
R194). -/
def State.afterCorrStep (u : State) (r : PassResult) (path : Bool) : State :=
  ((u.recordPass r).setRes (r.answer path).mp (u.recordPass r).run.mv (u.recordPass r).run.mvPos
    (boolWord path)).endCommand (r.answer path).code

theorem exec_corrStep {s u : State} {r : PassResult} {path : Bool} (hrun : s.Admits .corrStep)
    (hthres : badThreshold s.arg.r0 = false) (h : s.beginCommand.bestPass s.arg.r0 = (r, path, u)) :
    exec .corrStep s = .next (u.afterCorrStep r path) := by
  have hbody : corrStepBody s.beginCommand = .ret (r.answer path).code ((u.recordPass r).setRes (r.answer path).mp
      (u.recordPass r).run.mv (u.recordPass r).run.mvPos (boolWord (r.answer path).path)) := by
    have hstep : s.beginCommand.corrStep s.beginCommand.arg0F = _ := corrStep_of_bestPass h
    rw [corrStepBody, hstep]
    exact if_neg (Bool.eq_false_iff.1 hthres)
  have hpath : (r.answer path).path = path := by cases r <;> rfl
  have hexec : exec .corrStep s = _ := hrun.run corrStepBody
  rw [hexec, hbody, finishCommand_ret, hpath]
  rfl

/-- CORR_STEP writes MV, MV_POS, DC, DDF, BUFFERED, RES and RESULT, and what the passes write (rules R186, R194). -/
theorem afterCorrStep_eq {s u : State} (h : MemSpec s.beginCommand u) (r : PassResult) (path : Bool) :
    ∃ mv mvPos dc buffered result r0, u.afterCorrStep r path = { s.beginCommand with
      mem := u.mem
      run := { s.run with
        mv := mv, mvPos := mvPos, dc := dc, buffered := buffered
        ddf := fdiv (fmul (i2f s.cfg.sr.toNat) dc) (fmul ftwo s.inst.gain) }
      status := { s.status with busy := false }
      result := result
      res := ⟨r0, mv, mvPos, if path = true then 1#32 else 0#32⟩ } := by
  obtain ⟨m, rfl⟩ := h.exists
  cases r <;> exact ⟨_, _, _, _, _, _, rfl⟩

/-- The three outcomes of CORR_STEP, the pass `r` standing (rule R194). -/
theorem afterCorrStep_outcome {s u t : State} (h : MemSpec s.beginCommand u) {r : PassResult} {path : Bool}
    {moved : Word} (hplaced : r.PlacedIn s moved) (ht : u.afterCorrStep r path = t) :
    (r = .noPeak t.run.dc ∧ t.result = 0#32 ∧ t.res.r0 = 0xFFFFFFFF#32 ∧ t.run.mv = fzero
        ∧ t.run.mvPos = s.run.mvPos ∧ t.run.buffered = s.run.buffered)
      ∨ (∃ mp, r = .boundary t.run.dc mp ∧ t.result = 0xFFFFFFFC#32 ∧ t.run.mv = fzero ∧ t.run.mvPos = s.run.mvPos
          ∧ t.run.buffered = s.run.buffered ∧ t.res.r0 = BitVec.ofNat 32 mp
          ∧ (mp = s.size.l.toNat - 1 ∨ mp = s.size.k.toNat + s.size.l.toNat - 1))
      ∨ (∃ mp, r = .ok t.run.dc mp t.run.mvPos t.run.mv ∧ t.result = 0#32 ∧ t.res.r0 = BitVec.ofNat 32 mp
          ∧ t.run.buffered = s.run.sampleOut - t.run.mvPos
          ∧ t.run.mvPos = s.run.sampleOut - BitVec.ofNat 32 (s.size.k.toNat + s.size.l.toNat - 1) + BitVec.ofNat 32 mp
            + moved) := by
  subst ht
  obtain ⟨m, rfl⟩ := h.exists
  cases r with
  | noPeak dc => exact .inl ⟨rfl, rfl, rfl, rfl, rfl, rfl⟩
  | boundary dc mp => exact .inr (.inl ⟨mp, rfl, rfl, rfl, rfl, rfl, rfl, hplaced⟩)
  | ok dc mp mpos score => exact .inr (.inr ⟨mp, rfl, rfl, rfl, rfl, hplaced⟩)

end Sys2Proof.Machine
end

section
/-! SUPPORT. The statements about the correlation pass, the retry and CORR_STEP. -/

namespace Sys2Proof.Scope

open Machine

/-- Settles O44: the pass stage by stage is `correlationPass`; which of the two stands, `bestPass_of_first` and
`bestPass_of_retry`. -/
theorem retryAdoption : Obligations.RetryAdoption := by
  refine ⟨correlationPass, exceeds_iff, fun _ _ _ _ _ => rfl, tracking_iff, fun s thres =>
    ⟨bestPass_of_first rfl, fun htrack hlow r u hretry => ?_⟩⟩
  rw [bestPass_of_retry rfl htrack hlow hretry]
  exact ⟨fun hlow' => if_neg (Bool.eq_false_iff.1 hlow'), fun hhigh => if_pos hhigh⟩

/-- Settles O42: the command runs the step (`exec_corrStep`), which writes the registers that show the pass that stands
and no others (`afterCorrStep_outcome`, `afterCorrStep_eq`). -/
theorem corrStepCompletes : Obligations.CorrStepCompletes := by
  intro s hf hu hnan hneg
  obtain ⟨⟨r, path, u⟩, hpass⟩ : ∃ p, s.beginCommand.bestPass s.arg.r0 = p := ⟨_, rfl⟩
  have hthres : badThreshold s.arg.r0 = false := Bool.or_eq_false_iff.2 ⟨hnan, hneg⟩
  have hmem : MemSpec s.beginCommand u := by
    have h := bestPass_spec s.beginCommand s.arg.r0
    rwa [hpass] at h
  have hget {id : MemId} (hid : corrMem id = false) : u.mem.get id = s.mem.get id := by
    have h := get_bestPass s.beginCommand hid s.arg.r0
    rwa [hpass] at h
  obtain ⟨hplaced, hpath⟩ := bestPass_placed hpass
  obtain ⟨t, ht⟩ : ∃ t, u.afterCorrStep r path = t := ⟨_, rfl⟩
  have hexec := exec_corrStep ⟨hf, rfl, decide_eq_true hu⟩ hthres hpass
  have houtcome := afterCorrStep_outcome hmem hplaced ht
  obtain ⟨mv, mvPos, dc, buffered, result, r0, heq⟩ := afterCorrStep_eq hmem r path
  rw [ht] at hexec
  obtain rfl := ht.symm.trans heq
  exact ⟨_, r, path, u, hexec, hpass, kept_of_written s _ _ _ _ _, rfl, rfl, rfl, rfl, rfl, rfl, rfl,
    fun h => (tracking_iff _).1 (hpath h), fun _ _ => rfl, fun id a hid => byte_congr (hget hid) a, houtcome⟩

end Sys2Proof.Scope
end

section
/-! SUPPORT. The sample step does not look at the slicer's own registers BUFFERED, SC and BG, and what a number of
sample steps leaves (rules R160, R171, R211, R212). -/

namespace Sys2Proof.Machine

/-! ### Stages that do not look at the slicer's registers -/

/-- The slicer's own registers set (rules R211, R212). -/
def State.setClock (s : State) (b c : Word) (g : BitVec 48) : State :=
  { s with run := { s.run with buffered := b, sc := c, bg := g } }

/-- A stage does the same whatever the slicer's registers are, and leaves them alone. -/
def ClockFree {α : Type} (F : State → α × State) : Prop :=
  ∀ s b c g, F (s.setClock b c g) = ((F s).1, (F s).2.setClock b c g)

theorem ClockFree.eq {α : Type} {F : State → α × State} (h : ClockFree F) {s t : State} {a : α} (hs : F s = (a, t))
    (b c : Word) (g : BitVec 48) : F (s.setClock b c g) = (a, t.setClock b c g) := by
  rw [h, hs]

/-- A choice between two stages that is made without the slicer's registers. -/
theorem ClockFree.ite {α : Type} {F G : State → α × State} {p : State → Prop} [DecidablePred p] (hF : ClockFree F)
    (hG : ClockFree G) (hp : ∀ s b c g, p (s.setClock b c g) ↔ p s) :
    ClockFree (fun s => if p s then F s else G s) := by
  intro s b c g
  dsimp only
  by_cases h : p s
  · rw [if_pos h, if_pos ((hp s b c g).2 h), hF]
  · rw [if_neg h, if_neg (mt (hp s b c g).1 h), hG]

theorem pull_clockFree (n : Nat) : ClockFree (pull n) := by
  refine ClockFree.ite (p := fun s => s.status.eos = true) (fun _ _ _ _ => rfl)
    (ClockFree.ite (p := fun s => s.framesLeft n = true) (fun _ _ _ _ => rfl) (fun _ _ _ _ => rfl) ?left) ?notEnded
  case left => exact fun _ _ _ _ => Iff.rfl
  case notEnded => exact fun _ _ _ _ => Iff.rfl

theorem pullOne_clockFree : ClockFree pullOne := by
  intro s b c g
  rw [pullOne, pull_clockFree, pullOne]
  generalize pull 1 s = r
  match r with
  | (none, _) | (some [], _) | (some (_ :: _), _) => rfl

theorem readComplex_clockFree (f : Frame) : ClockFree (State.readComplex · f) := by
  intro s b c g
  refine Prod.ext rfl ?_
  change State.iqdcUpdate _ _ _ = (State.iqdcUpdate _ _ _).setClock b c g
  unfold State.iqdcUpdate State.setClock
  by_cases h : s.run.iqdcCnt + 1#32 = s.run.iqdcMaxCnt
  · rw [if_pos h, if_pos h]
    rfl
  · rw [if_neg h, if_neg h]

theorem foldl_rotateIn_setClock (fs : List Frame) (s : State) (b c : Word) (g : BitVec 48) :
    fs.foldl State.rotateIn (s.setClock b c g) = (fs.foldl State.rotateIn s).setClock b c g := by
  induction fs generalizing s with
  | nil => rfl
  | cons f rest ih =>
    have hread := readComplex_clockFree f s b c g
    have hone : (s.setClock b c g).rotateIn f = (s.rotateIn f).setClock b c g := by
      dsimp only at hread
      rw [rotateIn_eq, rotateIn_eq, hread]
      rfl
    rw [List.foldl_cons, hone, ih, List.foldl_cons]

theorem acquireDecim_clockFree : ClockFree acquireDecim := by
  intro s b c g
  unfold acquireDecim
  rw [show (s.setClock b c g).size = s.size from rfl, pull_clockFree]
  generalize pull s.size.decm.toNat s = r
  match r with
  | (none, _) => rfl
  | (some fs, t) =>
    dsimp only
    rw [foldl_rotateIn_setClock]
    rfl

theorem acquire_clockFree : ClockFree acquire := by
  refine ClockFree.ite (p := fun s => s.cfg.decim = true) acquireDecim_clockFree ?direct fun _ _ _ _ => Iff.rfl
  intro s b c g
  dsimp only
  rw [pullOne_clockFree]
  generalize pullOne s = r
  match r with
  | (none, _) => rfl
  | (some f, t) =>
    have hread := readComplex_clockFree f t b c g
    dsimp only at hread ⊢
    rw [hread]

theorem iqStages_clockFree (n : Word) (z : Cx) : ClockFree (State.iqStages · n z) := by
  have hif (y : Cx) : ClockFree (State.ifStage · y) :=
    ClockFree.ite (p := fun s => s.cfg.lpIq = true) (fun _ _ _ _ => rfl) (fun _ _ _ _ => rfl) fun _ _ _ _ => Iff.rfl
  have hfm (v : Word) : ClockFree (State.fmStage · v) :=
    ClockFree.ite (p := fun s => s.cfg.lpFm = true) (fun _ _ _ _ => rfl) (fun _ _ _ _ => rfl) fun _ _ _ _ => Iff.rfl
  intro s b c g
  obtain ⟨⟨y, t⟩, hy⟩ : ∃ r, s.ifStage (s.derotated n z) = r := ⟨_, rfl⟩
  have hy' : (s.setClock b c g).ifStage ((s.setClock b c g).derotated n z) = (y, t.setClock b c g) :=
    (hif (s.derotated n z)).eq hy b c g
  dsimp only
  unfold State.iqStages
  rw [hy, hy']
  exact hfm (t.discriminate y n).1 ((t.discriminate y n).2.writeWords .dcbuf ((t.discriminate y n).2.circ n)
    [(t.discriminate y n).1]) b c g

/-- A sample step (rule R160). -/
theorem demodStep_clockFree : ClockFree demodStep := by
  intro s b c g
  unfold demodStep
  by_cases hiq : s.cfg.iq = true
  · rw [if_pos hiq, if_pos (show (s.setClock b c g).cfg.iq = true from hiq), acquire_clockFree]
    generalize acquire s = r
    match r with
    | (none, _) => rfl
    | (some z, t) =>
      have hstages := iqStages_clockFree s.run.sampleIn z t b c g
      dsimp only at hstages ⊢
      rw [show (s.setClock b c g).run.sampleIn = s.run.sampleIn from rfl, hstages]
      rfl
  · rw [if_neg hiq, if_neg (show ¬ (s.setClock b c g).cfg.iq = true from hiq), pullOne_clockFree]
    generalize pullOne s = r
    match r with
    | (none, _) | (some _, _) => rfl

/-! ### A number of sample steps -/

/-- `t` comes from `s` by `n` sample steps and nothing else (rules R160, R171). -/
structure Stepped (n : Nat) (s t : State) : Prop where
  only : OnlySample s t
  status : t.status = s.status
  sampleIn : t.run.sampleIn = s.run.sampleIn + BitVec.ofNat 32 n
  srcPos : t.srcPos = s.srcPos + n * s.framesNeeded

theorem Stepped.refl (s : State) : Stepped 0 s s :=
  ⟨.refl s, rfl, (BitVec.add_zero _).symm, by rw [Nat.zero_mul, Nat.add_zero]⟩

theorem Stepped.succ {n : Nat} {s t u : State} {v : Word} (h : Stepped n s t) (hd : demodStep t = (some v, u)) :
    Stepped (n + 1) s u := by
  have hspec := demodStep_some hd
  have hneed : t.framesNeeded = s.framesNeeded := by
    rw [State.framesNeeded, h.only.cfg, h.only.size, State.framesNeeded]
  have hpos : u.srcPos = t.srcPos + t.framesNeeded := by
    obtain ⟨w, hw, rfl⟩ := demodStep_stages hd
    exact hw.stages.only.srcPos
  refine ⟨h.only.trans hspec.only, hspec.status.trans h.status, ?_, ?_⟩
  · rw [hspec.sampleIn, h.sampleIn, BitVec.add_assoc, BitVec.ofNat_add]
  · rw [hpos, h.srcPos, hneed, Nat.succ_mul, Nat.add_assoc]

/-- `u j` is the block after `j` sample steps from `s` and nothing else, for `j` up to `steps`; if there is a step, the
HOST is silent meanwhile. -/
structure SampleRun (s : State) (u : Nat → State) (steps : Nat) : Prop where
  start : u 0 = s
  step : ∀ j, j < steps → ∃ v, demodStep (u j) = (some v, u (j + 1))
  quiet : 0 < steps → s.during = []

theorem SampleRun.stepped {s : State} {u : Nat → State} {steps j : Nat} (h : SampleRun s u steps) (hj : j ≤ steps) :
    Stepped j s (u j) := by
  induction j with
  | zero => exact h.start ▸ .refl s
  | succ j ih =>
    obtain ⟨v, hv⟩ := h.step j hj
    exact (ih (Nat.le_of_succ_le hj)).succ hv

/-- The end of a command that has run sample steps and nothing else. -/
theorem OnlySample.kept {s u : State} (h : OnlySample s.beginCommand u) (c : Word) (q : Quad) (st : Status) (r : Run)
    (p : Nat) : Kept s { u with result := c, res := q, status := st, run := r, srcPos := p } :=
  ⟨⟨h.inst, h.active, h.arg, h.latch, h.cfg, h.source, h.host, h.during, h.hostReads⟩, h.fcause, h.finfo, h.size⟩

end Sys2Proof.Machine
end

section
/-! SUPPORT. The samples of a bit one by one: `NextSample` (rule R212), the loop of `Integrate` (rules R213, R218) in
closed form, and the end of the stream inside a bit (rule R219). -/

namespace Sys2Proof.Machine

/-! ### NextSample (rule R212) -/

theorem nextSample_buffered (ofs : Word) {s : State} (hb : 0 < s.run.buffered.toInt) :
    nextSample ofs s = .done (s.run.sampleOut - (s.run.buffered - 1#32) + ofs)
      (s.setClock (s.run.buffered - 1#32) s.run.sc s.run.bg) := if_pos hb

section
variable (ofs : Word) {s t : State} (hb : s.run.buffered.toInt ≤ 0) (hd : s.during = [])
include hb hd

theorem nextSample_unbuffered : nextSample ofs s
    = (Flow.ofOption (demodStep s)).bind (fun _ u => .done (u.run.sampleOut - u.run.buffered + ofs) u) := by
  rw [nextSample, if_neg (show ¬ 0 < s32 s.run.buffered from not_lt.2 hb), hostMoment_idle hd]
  rfl

theorem nextSample_pulled {v : Word} (h : demodStep s = (some v, t)) :
    nextSample ofs s = .done (t.run.sampleOut - s.run.buffered + ofs) t := by
  rw [nextSample_unbuffered ofs hb hd, h, ← (demodStep_some h).kept.buffered]
  rfl

theorem nextSample_eos (h : demodStep s = (none, t)) : nextSample ofs s = .eos t := by
  rw [nextSample_unbuffered ofs hb hd, h]
  rfl

end

theorem nextSamplePosition : NextSamplePosition := fun ofs _ hd =>
  ⟨fun hb => nextSample_buffered ofs hb, fun hb =>
    ⟨fun _ _ h => ⟨(demodStep_some h).kept.buffered, nextSample_pulled ofs hb hd h⟩,
      fun _ h => nextSample_eos ofs hb hd h⟩⟩

/-! ### BUFFERED while a bit is read -/

/-- How many samples the buffer can give (rule R212). -/
def State.available (s : State) : Nat := s.run.buffered.toInt.toNat

/-- BUFFERED after `j` samples: it stops at 0, or stays where it is if it is not above (rule R212). -/
def State.bufferedAfter (s : State) (j : Nat) : Word := s.run.buffered - BitVec.ofNat 32 (min j s.available)

theorem bufferedAfter_toInt (s : State) (j : Nat) :
    (s.bufferedAfter j).toInt = s.run.buffered.toInt - (min j s.available : Nat) := by
  have hlt := BitVec.toInt_lt (x := s.run.buffered)
  have hge := BitVec.le_toInt (x := s.run.buffered)
  rw [State.bufferedAfter, BitVec.toInt_sub, BitVec.toInt_ofNat', Int.sub_bmod_bmod]
  refine Int.bmod_eq_of_le ?_ ?_
  · unfold State.available
    omega
  · unfold State.available
    omega

theorem bufferedAfter_pos {s : State} {j : Nat} (h : j < s.available) : 0 < (s.bufferedAfter j).toInt := by
  rw [bufferedAfter_toInt]
  unfold State.available at h ⊢
  omega

theorem bufferedAfter_nonpos {s : State} {j : Nat} (h : s.available ≤ j) : (s.bufferedAfter j).toInt ≤ 0 := by
  rw [bufferedAfter_toInt]
  unfold State.available at h ⊢
  omega

theorem bufferedAfter_succ_of_lt {s : State} {j : Nat} (h : j < s.available) :
    s.bufferedAfter (j + 1) = s.bufferedAfter j - 1#32 := by
  rw [State.bufferedAfter, Nat.min_eq_left (show j + 1 ≤ _ from h), BitVec.ofNat_add, ← BitVec.sub_sub,
    State.bufferedAfter, Nat.min_eq_left h.le]

theorem bufferedAfter_of_le {s : State} {j : Nat} (h : s.available ≤ j) :
    s.bufferedAfter j = s.bufferedAfter s.available := by
  rw [State.bufferedAfter, Nat.min_eq_right h, State.bufferedAfter, Nat.min_self]

/-! ### One sample of a bit -/

section
variable (g : BitFlags) (ofs : Word) (s : State) (u : Nat → State)

/-- The position of sample `j` (rule R212): that of the last sample step is in the block that it leaves. -/
def samplePosition (j : Nat) : Word :=
  (u (j + 1 - s.available)).run.sampleOut - s.bufferedAfter (j + 1) + ofs

/-- Sample `j` of a bit after the stages that its flags ask for (rule R213). -/
def bitSample (j : Nat) : Word := (u (j + 1 - s.available)).slicerSample g (samplePosition ofs s u j)

/-- The block after `j` samples of a bit, in a symbol that ends at `bg`; `sc` is the count of the bit's first sample. -/
def bitBlock (bg sc j : Nat) : State :=
  (u (j - s.available)).setClock (s.bufferedAfter j) (BitVec.ofNat 32 (sc + j)) (BitVec.ofNat 48 bg)

/-- The loop's sum over `n` samples from sample `j` on, `mid2` being twice the symbol's centre (rules R213, R218). -/
def bitFold (l mid2 : Int) (add : Bool) (sc j n : Nat) (acc : Word) : Word :=
  symbolFold l mid2 (fun i => bitSample g ofs s u (j + i)) add (sc + j) n acc

end

/-- One sample of the loop of rule R213. -/
theorem integrateLoop_succ (g : BitFlags) (ofs : Word) (l mid2 : Int) (add : Bool) (fuel : Nat) (acc : Word)
    {idx : Word} {s t : State} (hbelow : s.scBelowBg = true) (hnext : nextSample ofs s = .done idx t)
    (hroom : t.run.sc.toNat + 1 < 2 ^ 32) : integrateLoop add g ofs l mid2 (fuel + 1) acc s
      = integrateLoop add g ofs l mid2 fuel
        (if contributes l mid2 t.run.sc.toNat = true then addSample add acc (t.slicerSample g idx) else acc)
        t.tickSc := by
  rw [integrateLoop, if_pos hbelow, hnext]
  exact if_pos hroom

theorem symbolFold_succ (l mid2 : Int) (x : Nat → Word) (add : Bool) (sc n : Nat) (acc : Word) :
    symbolFold l mid2 x add sc (n + 1) acc = if contributes l mid2 (sc + n) = true
      then addSample add (symbolFold l mid2 x add sc n acc) (x n) else symbolFold l mid2 x add sc n acc := by
  rw [symbolFold, List.range_succ, List.foldl_append]
  rfl

theorem symbolFold_congr {l mid2 : Int} {x y : Nat → Word} {add : Bool} {sc n : Nat} {acc : Word}
    (h : ∀ j, j < n → x j = y j) : symbolFold l mid2 x add sc n acc = symbolFold l mid2 y add sc n acc :=
  List.foldl_ext _ _ _ fun _ j hj => by rw [h j (List.mem_range.1 hj)]

section
variable (g : BitFlags) (ofs : Word) {s : State} {u : Nat → State} {steps : Nat} (hu : SampleRun s u steps)
include hu

/-- A sample of a bit, buffered or of the next sample step (rule R212): the block is then the next one but for SC. -/
theorem nextSample_bitBlock {bg sc j : Nat} (hj : j < s.available + steps) :
    ∃ t, nextSample ofs (bitBlock s u bg sc j) = .done (samplePosition ofs s u j) t
      ∧ t.run.sc = BitVec.ofNat 32 (sc + j) ∧ t.tickSc = bitBlock s u bg sc (j + 1)
      ∧ t.slicerSample g (samplePosition ofs s u j) = bitSample g ofs s u j := by
  refine ⟨(u (j + 1 - s.available)).setClock (s.bufferedAfter (j + 1)) (BitVec.ofNat 32 (sc + j)) (BitVec.ofNat 48 bg),
    ?_, rfl, ?tick, rfl⟩
  case tick =>
    rw [bitBlock, ← Nat.add_assoc, BitVec.ofNat_add (sc + j)]
    rfl
  unfold bitBlock samplePosition
  by_cases hbuf : j < s.available
  · rw [nextSample_buffered ofs (bufferedAfter_pos hbuf), bufferedAfter_succ_of_lt hbuf, Nat.sub_eq_zero_of_le hbuf,
      Nat.sub_eq_zero_of_le hbuf.le]
    rfl
  · have hle := Nat.not_lt.1 hbuf
    obtain ⟨v, hv⟩ := hu.step (j - s.available) (by omega)
    have hquiet : (u (j - s.available)).during = [] :=
      (hu.stepped (by omega)).only.during.trans (hu.quiet (by omega))
    rw [Nat.sub_add_comm hle, bufferedAfter_of_le (Nat.le_succ_of_le hle), ← bufferedAfter_of_le hle]
    exact nextSample_pulled ofs (s := (u (j - s.available)).setClock _ _ _) (bufferedAfter_nonpos hle) hquiet
      (demodStep_clockFree.eq hv _ _ _)

/-- The stream ends where a sample step finds too few frames (rules R141, R219). -/
theorem nextSample_bitBlock_eos {bg sc : Nat} (hd : s.during = []) (he : s.status.eos = false) {w : State}
    (hw : demodStep (u steps) = (none, w)) : nextSample ofs (bitBlock s u bg sc (s.available + steps))
      = .eos (bitBlock s u bg sc (s.available + steps)).atEos := by
  have hstepped := hu.stepped le_rfl
  obtain rfl := demodStep_eos ((congrArg Status.eos hstepped.status).trans he) hw
  unfold bitBlock
  rw [Nat.add_sub_cancel_left]
  exact nextSample_eos ofs (bufferedAfter_nonpos (Nat.le_add_right _ _)) (hstepped.only.during.trans hd)
    (demodStep_clockFree.eq hw _ _ _)

/-! ### The loop over a symbol (rule R213) -/

variable (l mid2 : Int) (add : Bool) {bg sc : Nat} (hroom : bg ≤ (2 ^ 32 - 1) * 65536)
include hroom

omit hu in
theorem bitBlock_scBelowBg {j : Nat} (hj : sc + j < ceilBg bg) : (bitBlock s u bg sc j).scBelowBg = true := by
  unfold ceilBg at hj
  refine decide_eq_true ?_
  change 65536 * (BitVec.ofNat 32 (sc + j)).toNat < (BitVec.ofNat 48 bg).toNat
  rw [BitVec.toNat_ofNat, BitVec.toNat_ofNat, Nat.mod_eq_of_lt (by omega), Nat.mod_eq_of_lt (by omega)]
  omega

theorem integrateLoop_bitBlock (fuel : Nat) (acc : Word) {j : Nat} (hj : sc + j < ceilBg bg)
    (hhave : j < s.available + steps) : integrateLoop add g ofs l mid2 (fuel + 1) acc (bitBlock s u bg sc j)
      = integrateLoop add g ofs l mid2 fuel
        (if contributes l mid2 (sc + j) = true then addSample add acc (bitSample g ofs s u j) else acc)
        (bitBlock s u bg sc (j + 1)) := by
  obtain ⟨t, hnext, hsc, htick, hsample⟩ := nextSample_bitBlock g (bg := bg) (sc := sc) ofs hu hhave
  have hbelow := bitBlock_scBelowBg (s := s) (u := u) hroom hj
  unfold ceilBg at hj
  have hcount : t.run.sc.toNat = sc + j := by rw [hsc, BitVec.toNat_ofNat, Nat.mod_eq_of_lt (by omega)]
  rw [integrateLoop_succ g ofs l mid2 add fuel acc hbelow hnext (by omega), hcount, htick, hsample]

/-- `n` samples of a symbol that the buffer and the sample steps give. -/
theorem integrateLoop_samples (fuel : Nat) (acc : Word) {j n : Nat} (hn : n ≤ ceilBg bg - (sc + j))
    (hhave : j + n ≤ s.available + steps) : integrateLoop add g ofs l mid2 (n + fuel) acc (bitBlock s u bg sc j)
      = integrateLoop add g ofs l mid2 fuel (bitFold g ofs s u l mid2 add sc j n acc) (bitBlock s u bg sc (j + n)) := by
  induction n generalizing fuel with
  | zero => rw [Nat.zero_add]; rfl
  | succ n ih =>
    rw [Nat.succ_add_eq_add_succ, ih (fuel + 1) (by omega) (by omega),
      integrateLoop_bitBlock g ofs hu l mid2 add hroom fuel _ (by omega) (by omega), bitFold, bitFold, symbolFold_succ,
      Nat.add_assoc sc]
    rfl

theorem integrateLoop_eos (fuel : Nat) (acc : Word) {j : Nat} (hj : j ≤ s.available + steps)
    (hfuel : s.available + steps - j < fuel) (hend : sc + (s.available + steps) < ceilBg bg) (hd : s.during = [])
    (he : s.status.eos = false) {w : State} (hw : demodStep (u steps) = (none, w)) :
    integrateLoop add g ofs l mid2 fuel acc (bitBlock s u bg sc j)
      = .eos (bitBlock s u bg sc (s.available + steps)).atEos := by
  obtain ⟨k, hk⟩ := Nat.exists_eq_add_of_le hj
  obtain ⟨rest, rfl⟩ : ∃ rest, fuel = k + (rest + 1) := ⟨fuel - k - 1, by omega⟩
  rw [integrateLoop_samples g ofs hu l mid2 add hroom _ acc (by omega) hk.ge, ← hk, integrateLoop,
    if_pos (bitBlock_scBelowBg hroom hend), nextSample_bitBlock_eos ofs hu hd he hw]
  rfl

end

end Sys2Proof.Machine
end

section
/-! SUPPORT. A whole bit of buffered or pulled samples, and RD_SBIT and RD_HBIT on it (rules R211 to R219). -/

namespace Sys2Proof.Machine

/-! ### One symbol (rule R213) -/

/-- What a symbol that starts at `start` adds to `acc`, or takes from it: `n` samples from sample `j` of the bit on. -/
def symbolPart (g : BitFlags) (ofs : Word) (l : Int) (s : State) (u : Nat → State) (sc : Nat) (add : Bool)
    (start j n : Nat) (acc : Word) : Word :=
  bitFold g ofs s u l (2 * start + s.cfg.sps.toNat - 65536) add sc j n acc

/-- BG moves on by the symbol's length before its first sample. -/
theorem integrate_eq_loop (g : BitFlags) (ofs : Word) (l : Int) (add : Bool) (acc : Word) {s : State} {bg sc : Nat}
    (hc : ClockAt bg sc s) (hroom : bg + s.cfg.sps.toNat ≤ (2 ^ 32 - 1) * 65536) : integrate add g ofs l acc s
      = integrateLoop add g ofs l (2 * bg + s.cfg.sps.toNat - 65536) (ceilBg (bg + s.cfg.sps.toNat) - sc) acc
        (s.setClock s.run.buffered s.run.sc (BitVec.ofNat 48 (bg + s.cfg.sps.toNat))) := by
  unfold integrate
  dsimp only
  rw [hc.bg, hc.sc, if_pos (by omega)]
  rfl

section
variable (g : BitFlags) (ofs : Word) (l : Int) {s : State} {u : Nat → State} {steps : Nat} (hu : SampleRun s u steps)
  (add : Bool) (acc : Word) {bg sc j n : Nat} (hroom : bg + s.cfg.sps.toNat ≤ (2 ^ 32 - 1) * 65536)
  (hsc : sc + j < 2 ^ 32)
include hu hroom hsc

theorem integrate_bitBlock (hj : j ≤ s.available + steps) : integrate add g ofs l acc (bitBlock s u bg sc j)
    = integrateLoop add g ofs l (2 * bg + s.cfg.sps.toNat - 65536) (ceilBg (bg + s.cfg.sps.toNat) - (sc + j)) acc
      (bitBlock s u (bg + s.cfg.sps.toNat) sc j) := by
  have hclock : ClockAt bg (sc + j) (bitBlock s u bg sc j) :=
    ⟨(BitVec.toNat_ofNat ..).trans (Nat.mod_eq_of_lt (by omega)),
      (BitVec.toNat_ofNat ..).trans (Nat.mod_eq_of_lt hsc)⟩
  have hcfg : (bitBlock s u bg sc j).cfg = s.cfg := (hu.stepped (by omega)).only.cfg
  rw [integrate_eq_loop g ofs l add acc hclock (by rw [hcfg]; exact hroom), hcfg]
  rfl

theorem integrate_samples (hn : n = ceilBg (bg + s.cfg.sps.toNat) - (sc + j)) (hhave : j + n ≤ s.available + steps) :
    integrate add g ofs l acc (bitBlock s u bg sc j)
      = .done (symbolPart g ofs l s u sc add bg j n acc) (bitBlock s u (bg + s.cfg.sps.toNat) sc (j + n)) := by
  rw [integrate_bitBlock g ofs l hu add acc hroom hsc (by omega), ← hn]
  exact integrateLoop_samples g ofs hu l _ add hroom 0 acc hn.le hhave

theorem integrate_eos (hn : n = ceilBg (bg + s.cfg.sps.toNat) - (sc + j)) (hj : j ≤ s.available + steps)
    (hend : s.available + steps < j + n) (hd : s.during = []) (he : s.status.eos = false) {w : State}
    (hw : demodStep (u steps) = (none, w)) : integrate add g ofs l acc (bitBlock s u bg sc j)
      = .eos (bitBlock s u (bg + s.cfg.sps.toNat) sc (s.available + steps)).atEos := by
  rw [integrate_bitBlock g ofs l hu add acc hroom hsc hj]
  exact integrateLoop_eos g ofs hu l _ add hroom _ acc hj (by omega) (by omega) hd he hw

end

/-! ### The symbols of a bit (rule R215) -/

/-- The symbol clock of a bit: from `bg` and `sc` on, its first symbol takes `n` samples, its second (if any) `n'`. -/
structure BitClock (c : Cfg) (bg sc n n' : Nat) : Prop where
  room : bg + c.bitSymbols * c.sps.toNat ≤ (2 ^ 32 - 1) * 65536
  count : sc < 2 ^ 32
  first : n = ceilBg (bg + c.sps.toNat) - sc
  second : n' = ceilBg (bg + c.bitSymbols * c.sps.toNat) - (sc + n)

theorem BitClock.firstRoom {c : Cfg} {bg sc n n' : Nat} (h : BitClock c bg sc n n') :
    bg + c.sps.toNat ≤ (2 ^ 32 - 1) * 65536 := by
  have hsymbol : c.sps.toNat ≤ c.bitSymbols * c.sps.toNat :=
    Nat.le_mul_of_pos_left _ (by unfold Cfg.bitSymbols; split <;> decide)
  exact Nat.le_trans (Nat.add_le_add_left hsymbol bg) h.room

theorem BitClock.secondCount {c : Cfg} {bg sc n n' : Nat} (h : BitClock c bg sc n n') : sc + n < 2 ^ 32 := by
  have hroom := h.firstRoom
  have hcount := h.count
  rw [h.first, ceilBg]
  omega

/-- A bit of one symbol takes no sample for a second. -/
theorem BitClock.second_of_one {c : Cfg} {bg sc n n' : Nat} (h : BitClock c bg sc n n') (hone : c.bitSymbols = 1) :
    n' = 0 := by
  rw [h.second, h.first, hone, Nat.one_mul]
  omega

/-- The integral of a bit: with two symbols the first is subtracted and the second added (rule R215). -/
def bitSum (g : BitFlags) (ofs : Word) (l : Int) (s : State) (u : Nat → State) (bg sc n n' : Nat) : Word :=
  if s.cfg.bitSymbols = 2 then symbolPart g ofs l s u sc true (bg + s.cfg.sps.toNat) n n'
    (symbolPart g ofs l s u sc false bg 0 n fzero)
  else symbolPart g ofs l s u sc true bg 0 n fzero

theorem bitSymbols_cases (c : Cfg) : (c.symbols = 2 ∧ c.bitSymbols = 2) ∨ (c.symbols ≠ 2 ∧ c.bitSymbols = 1) := by
  unfold Cfg.bitSymbols
  by_cases h : c.symLen.toNat % 4 = 2
  · exact .inl ⟨h, if_pos h⟩
  · exact .inr ⟨h, if_neg h⟩

section
variable (g : BitFlags) (ofs : Word) (l : Int) {s : State} {u : Nat → State} {steps bg sc n n' : Nat}
  (hu : SampleRun s u steps) (hc : BitClock s.cfg bg sc n n')
include hu hc

omit hc in
theorem bitBlock_cfg_zero : (bitBlock s u bg sc 0).cfg = s.cfg := by
  rw [bitBlock, Nat.zero_sub, hu.start]
  rfl

theorem readSymbols_samples (hhave : n + n' ≤ s.available + steps) : readSymbols g ofs l (bitBlock s u bg sc 0)
    = .done (bitSum g ofs l s u bg sc n n')
      (bitBlock s u (bg + s.cfg.bitSymbols * s.cfg.sps.toNat) sc (n + n')) := by
  have hfirst (add : Bool) := integrate_samples (j := 0) g ofs l hu add fzero hc.firstRoom hc.count hc.first (by omega)
  simp only [Nat.zero_add] at hfirst
  rw [readSymbols, bitBlock_cfg_zero hu, bitSum]
  rcases bitSymbols_cases s.cfg with ⟨htwo, hbit⟩ | ⟨hone, hbit⟩
  · have hroom := hc.room
    have hn' := hc.second
    rw [hbit, Nat.two_mul, ← Nat.add_assoc] at hroom hn'
    rw [if_pos htwo, if_pos hbit, hfirst, hbit, Nat.two_mul, ← Nat.add_assoc]
    exact integrate_samples g ofs l hu true _ hroom hc.secondCount hn' hhave
  · rw [if_neg hone, hbit, if_neg (by decide), Nat.one_mul, hc.second_of_one hbit, Nat.add_zero]
    exact hfirst true

theorem readSymbols_eos (hend : s.available + steps < n + n') (hd : s.during = []) (he : s.status.eos = false)
    {w : State} (hw : demodStep (u steps) = (none, w)) : readSymbols g ofs l (bitBlock s u bg sc 0)
      = .eos (bitBlock s u (bg + (if s.available + steps < n then 1 else 2) * s.cfg.sps.toNat) sc
        (s.available + steps)).atEos := by
  rw [readSymbols, bitBlock_cfg_zero hu]
  by_cases hn : s.available + steps < n
  · have hfirst (add : Bool) := integrate_eos (j := 0) g ofs l hu add fzero hc.firstRoom hc.count hc.first
      (Nat.zero_le _) (by omega) hd he hw
    rw [if_pos hn, Nat.one_mul]
    by_cases htwo : s.cfg.symbols = 2
    · rw [if_pos htwo, hfirst]
      rfl
    · rw [if_neg htwo]
      exact hfirst true
  · rcases bitSymbols_cases s.cfg with ⟨htwo, hbit⟩ | ⟨-, hbit⟩
    · have hroom := hc.room
      have hn' := hc.second
      rw [hbit, Nat.two_mul, ← Nat.add_assoc] at hroom hn'
      rw [if_neg hn, if_pos htwo, integrate_samples g ofs l hu false fzero hc.firstRoom hc.count hc.first (by omega),
        Nat.zero_add, Nat.two_mul, ← Nat.add_assoc]
      exact integrate_eos g ofs l hu true _ hroom hc.secondCount hn' (Nat.not_lt.1 hn) hend hd he hw
    · have hnone := hc.second_of_one hbit
      omega

end

/-! ### RD_SBIT and RD_HBIT on a bit -/

@[simp] theorem beginCommand_available (s : State) : s.beginCommand.available = s.available := rfl
@[simp] theorem beginCommand_bufferedAfter (s : State) (j : Nat) :
    s.beginCommand.bufferedAfter j = s.bufferedAfter j := rfl

theorem startCount_lt (s : State) (rst : Bool) : (if rst = true then 0 else s.run.sc.toNat) < 2 ^ 32 := by
  cases rst
  · exact s.run.sc.isLt
  · exact Nat.two_pow_pos 32

/-- A bit that the two commands read, from a state `s` in READY: the sample steps from the command's start, and the
symbol clock after RST (rules R211, R215 to R217). -/
structure BitRead (flags : Nibble) (s : State) (u : Nat → State) (steps bg sc n n' : Nat) : Prop where
  fault : s.status.fault = false
  ready : s.status.session = .ready
  run : SampleRun s.beginCommand u steps
  startBg : bg = if flags.getLsbD 3 = true then 0 else s.run.bg.toNat
  startSc : sc = if flags.getLsbD 3 = true then 0 else s.run.sc.toNat
  clock : BitClock s.cfg bg sc n n'

section
variable {flags : Nibble} {s : State} {u : Nat → State} {steps bg sc n n' : Nat}
  (h : BitRead flags s u steps bg sc n n')
include h

theorem BitRead.clockStart : s.beginCommand.clockStart (flagsOf flags) = bitBlock s.beginCommand u bg sc 0 := by
  have hbuf : s.beginCommand.bufferedAfter 0 = s.run.buffered := by
    rw [State.bufferedAfter, Nat.zero_min]
    exact BitVec.sub_zero _
  have hsc : BitVec.ofNat 32 (s.run.sc.toNat + 0) = s.run.sc := by simp
  have hbg : BitVec.ofNat 48 s.run.bg.toNat = s.run.bg := by simp
  obtain rfl := h.startBg
  obtain rfl := h.startSc
  rw [bitBlock, Nat.zero_sub, h.run.start, hbuf, State.clockStart, flagsOf]
  cases flags.getLsbD 3
  · change _ = s.beginCommand.setClock _ (BitVec.ofNat 32 (s.run.sc.toNat + 0)) (BitVec.ofNat 48 s.run.bg.toNat)
    rw [hsc, hbg]
    rfl
  · rfl

/-- The bit read: the two commands differ in RES1 alone (rules R216, R217). -/
theorem BitRead.exec_samples (hhave : n + n' ≤ s.available + steps) :
    ∃ acc t, acc = bitSum (flagsOf flags) s.arg.r0 s.arg.r1.toInt s.beginCommand u bg sc n n'
      ∧ t = bitBlock s.beginCommand u (bg + s.cfg.bitSymbols * s.cfg.sps.toNat) sc (n + n')
      ∧ exec (.rdSbit flags) s = .next ((t.setRes01 (boolWord (hardBit acc)) acc).endCommand 0#32)
      ∧ exec (.rdHbit flags) s = .next ((t.setRes0 (boolWord (hardBit acc))).endCommand 0#32) := by
  refine ⟨_, _, rfl, rfl, ?_, ?_⟩
  · rw [exec_rdSbit_ready flags h.fault h.ready, readBit_eq, h.clockStart,
      readSymbols_samples _ _ _ h.run h.clock hhave]
    rfl
  · rw [exec_rdHbit_ready flags h.fault h.ready, readBit_eq, h.clockStart,
      readSymbols_samples _ _ _ h.run h.clock hhave]
    rfl

/-- The end of the stream inside the bit (rule R219). -/
theorem BitRead.exec_eos (hend : s.available + steps < n + n') (hd : s.during = []) (he : s.status.eos = false)
    {w : State} (hw : demodStep (u steps) = (none, w)) :
    ∃ t, t = (bitBlock s.beginCommand u (bg + (if s.available + steps < n then 1 else 2) * s.cfg.sps.toNat) sc
        (s.available + steps)).atEos.endCommand 0xFFFFFFFF#32
      ∧ exec (.rdSbit flags) s = .next t ∧ exec (.rdHbit flags) s = .next t := by
  refine ⟨_, rfl, ?_, ?_⟩
  · rw [exec_rdSbit_ready flags h.fault h.ready, readBit_eq, h.clockStart,
      readSymbols_eos _ _ _ h.run h.clock hend hd he hw]
    rfl
  · rw [exec_rdHbit_ready flags h.fault h.ready, readBit_eq, h.clockStart,
      readSymbols_eos _ _ _ h.run h.clock hend hd he hw]
    rfl

/-- What the bit shows, and what it leaves (rules R212 to R217). -/
theorem BitRead.completes (hsteps : steps = n + n' - s.available) :
    ∃ t w, exec (.rdSbit flags) s = .next t ∧ Completed 0#32 s t
      ∧ exec (.rdHbit flags) s = .next w ∧ w = { t with res := { s.res with r0 := t.res.r0 } }
      ∧ t.res.r1 = bitSum (flagsOf flags) s.arg.r0 s.arg.r1.toInt s.beginCommand u bg sc n n'
      ∧ t.res = { s.res with r0 := if fge t.res.r1 fzero = true then 1#32 else 0#32, r1 := t.res.r1 }
      ∧ t.run = { (u steps).run with
          buffered := s.bufferedAfter (n + n')
          sc := BitVec.ofNat 32 (sc + n + n')
          bg := BitVec.ofNat 48 (bg + s.cfg.bitSymbols * s.cfg.sps.toNat) }
      ∧ t.run.sampleIn = s.run.sampleIn + BitVec.ofNat 32 steps
      ∧ t.srcPos = s.srcPos + steps * s.framesNeeded
      ∧ ∀ id a, t.byte id a = (u steps).byte id a := by
  obtain ⟨acc, t, rfl, ht, hsbit, hhbit⟩ := h.exec_samples (by omega)
  have hstepped := h.run.stepped le_rfl
  have hblock : t = (u steps).setClock (s.bufferedAfter (n + n')) (BitVec.ofNat 32 (sc + n + n'))
      (BitVec.ofNat 48 (bg + s.cfg.bitSymbols * s.cfg.sps.toNat)) := by
    rw [ht, Nat.add_assoc, hsteps]
    rfl
  have hres : (u steps).res = s.res := hstepped.only.res
  obtain rfl := hblock
  refine ⟨_, _, hsbit, ⟨hstepped.only.kept _ _ _ _ _, rfl, ?status⟩, hhbit, ?hard, rfl, ?res, rfl, hstepped.sampleIn,
    hstepped.srcPos, fun _ _ => rfl⟩
  case status => exact congrArg (fun st => { st with busy := false }) hstepped.status
  case hard | res =>
    rw [← hres]
    rfl

/-- What the end of the stream leaves (rule R219). -/
theorem BitRead.ends (hlt : steps < n + n' - s.available) (hd : s.during = [])
    (he : s.status.eos = false) {w : State} (hw : demodStep (u steps) = (none, w)) :
    ∃ t, exec (.rdSbit flags) s = .next t ∧ exec (.rdHbit flags) s = .next t ∧ Kept s t ∧ t.result = 0xFFFFFFFF#32
      ∧ t.status = { s.status with busy := false, eos := true, session := .ended } ∧ t.res = s.res
      ∧ t.run = { (u steps).run with
          buffered := s.bufferedAfter s.available
          sc := BitVec.ofNat 32 (sc + s.available + steps)
          bg := BitVec.ofNat 48 (bg + (if s.available + steps < n then 1 else 2) * s.cfg.sps.toNat) }
      ∧ t.srcPos = s.source.frames.length ∧ ∀ id a, t.byte id a = (u steps).byte id a := by
  obtain ⟨t, ht, hsbit, hhbit⟩ := h.exec_eos (by omega) hd he hw
  have hstepped := h.run.stepped le_rfl
  have hblock : t = ((u steps).setClock (s.bufferedAfter s.available) (BitVec.ofNat 32 (sc + s.available + steps))
      (BitVec.ofNat 48 (bg + (if s.available + steps < n then 1 else 2) * s.cfg.sps.toNat))).atEos.endCommand
        0xFFFFFFFF#32 := by
    rw [ht, bitBlock, beginCommand_available, beginCommand_bufferedAfter, bufferedAfter_of_le (Nat.le_add_right _ _),
      Nat.add_sub_cancel_left, Nat.add_assoc sc]
  obtain rfl := hblock
  refine ⟨_, hsbit, hhbit, hstepped.only.kept _ _ _ _ _, rfl, ?status, hstepped.only.res, rfl, ?srcPos, fun _ _ => rfl⟩
  case status => exact congrArg (fun st => { st with busy := false, eos := true, session := .ended }) hstepped.status
  case srcPos => exact congrArg (fun src : Source => src.frames.length) hstepped.only.source

end

/-! ### A bit of buffered samples alone -/

/-- With no sample step, the samples of a symbol are those of the buffer (rule R213). -/
theorem symbolPart_buffered (g : BitFlags) (s : State) (sc : Nat) (add : Bool) (start : Nat) {j n : Nat} (acc : Word)
    (h : j + n ≤ s.available) :
    symbolPart g s.arg.r0 s.arg.r1.toInt s.beginCommand (fun _ => s.beginCommand) sc add start j n acc
      = s.beginCommand.symbolSum g add start (sc + j) n j acc := by
  refine symbolFold_congr fun i hi => ?_
  rw [bitSample, samplePosition, beginCommand_bufferedAfter, State.bufferedAfter, Nat.min_eq_left (by omega), ← sub_add]
  rfl

theorem BitRead.completes_buffered {flags : Nibble} {s : State} {bg sc n n' : Nat}
    (h : BitRead flags s (fun _ => s.beginCommand) 0 bg sc n n')
    (hhave : ((n + n' : Nat) : Int) ≤ s.run.buffered.toInt) :
    ∃ t w, exec (.rdSbit flags) s = .next t ∧ Completed 0#32 s t
      ∧ exec (.rdHbit flags) s = .next w ∧ w = { t with res := { s.res with r0 := t.res.r0 } }
      ∧ t.res.r1 = (if s.cfg.bitSymbols = 2 then
          s.beginCommand.symbolSum (flagsOf flags) true (bg + s.cfg.sps.toNat) (sc + n) n' n
            (s.beginCommand.symbolSum (flagsOf flags) false bg sc n 0 fzero)
        else s.beginCommand.symbolSum (flagsOf flags) true bg sc n 0 fzero)
      ∧ t.res = { s.res with r0 := if fge t.res.r1 fzero = true then 1#32 else 0#32, r1 := t.res.r1 }
      ∧ t.run = { s.run with
          buffered := s.run.buffered - BitVec.ofNat 32 (n + n')
          sc := BitVec.ofNat 32 (sc + n + n')
          bg := BitVec.ofNat 48 (bg + s.cfg.bitSymbols * s.cfg.sps.toNat) }
      ∧ t.srcPos = s.srcPos ∧ ∀ id a, t.byte id a = s.byte id a := by
  have hle : n + n' ≤ s.available := by
    unfold State.available
    omega
  obtain ⟨t, w, hsbit, hdone, hhbit, hhard, hr1, hres, hrun, -, hpos, hbytes⟩ := h.completes (by omega)
  refine ⟨t, w, hsbit, hdone, hhbit, hhard, ?_, hres, ?_, ?_, hbytes⟩
  · rw [hr1, bitSum, symbolPart_buffered _ _ _ _ _ _ hle, symbolPart_buffered _ _ _ _ _ _ (by omega),
      symbolPart_buffered _ _ _ _ _ _ (by omega)]
    rfl
  · rw [hrun, State.bufferedAfter, Nat.min_eq_left hle]
    rfl
  · rw [hpos, Nat.zero_mul, Nat.add_zero]

end Sys2Proof.Machine
end

section
/-! SUPPORT. The statements about the slicer's samples. -/

namespace Sys2Proof.Scope

open Machine

theorem pulledBit : PulledBit := by
  intro flags s u bg sc symbols n n' b steps hf hr he hd hbg hsc hsymbols hroom hn hn' hb hu _ hstep
  subst hsymbols hb
  have h : BitRead flags s u steps bg sc n n' :=
    ⟨hf, hr, ⟨hu, hstep, fun _ => hd⟩, hbg, hsc, ⟨hroom, hsc.trans_lt (startCount_lt s _), hn, hn'⟩⟩
  exact ⟨fun hsteps => h.completes hsteps, fun w hlt hw => h.ends hlt hd he hw⟩

/-- Settles O51: a bit of buffered samples alone is one of no sample step (`BitRead.completes_buffered`); a pulled one
is `pulledBit`, the single sample `nextSamplePosition`. -/
theorem bufferedSymbolSum : Obligations.BufferedSymbolSum := by
  refine ⟨fun flags s bg sc n hf hr hbg hsc hn => ?buffered, pulledBit, nextSamplePosition⟩
  have hrun : SampleRun s.beginCommand (fun _ => s.beginCommand) 0 :=
    ⟨rfl, fun j hj => absurd hj (Nat.not_lt_zero j), fun h => absurd h (Nat.lt_irrefl 0)⟩
  have hread (n' : Nat) (hroom : bg + s.cfg.bitSymbols * s.cfg.sps.toNat ≤ (2 ^ 32 - 1) * 65536)
      (hn' : n' = ceilBg (bg + s.cfg.bitSymbols * s.cfg.sps.toNat) - (sc + n)) :
      BitRead flags s (fun _ => s.beginCommand) 0 bg sc n n' :=
    ⟨hf, hr, hrun, hbg, hsc, ⟨hroom, hsc.trans_lt (startCount_lt s _), hn, hn'⟩⟩
  refine ⟨fun hone hhave hroom => ?one, fun n' htwo hn' hhave hroom => ?two⟩
  case one =>
    have hbit : s.cfg.bitSymbols = 1 := if_neg hone
    have hnone : 0 = ceilBg (bg + 1 * s.cfg.sps.toNat) - (sc + n) := by
      unfold ceilBg
      omega
    have h := (hread 0 (by rw [hbit, Nat.one_mul]; exact hroom) (by rw [hbit]; exact hnone)).completes_buffered hhave
    rwa [hbit, Nat.one_mul] at h
  case two =>
    have hbit : s.cfg.bitSymbols = 2 := if_pos htwo
    have h := (hread n' (by rw [hbit]; exact hroom) (by rw [hbit]; exact hn')).completes_buffered hhave
    rwa [hbit] at h

/-- Settles O52: each stage is the model's own, with BUFS read modulo S_M, and the sub-interval is strict on both
sides. -/
theorem slicerStages : Obligations.SlicerStages := by
  refine ⟨fun _ _ _ => rfl, fun s flags idx => ⟨_, _, _, rfl, rfl, rfl, rfl⟩, fun l mid2 sc => ?_⟩
  simp only [contributes, Bool.or_eq_true, Bool.and_eq_true, decide_eq_true_iff]
  omega

end Sys2Proof.Scope
end

section
/-! SUPPORT. Commands that change no data: the fault gate, NOP, and an INIT that refuses (rules R230 to R233). -/

namespace Sys2Proof.Machine

/-- A command that only begins and ends leaves nothing behind but RESULT and the latched operands. -/
theorem endCommand_beginCommand_kept (s : State) (code : Word) :
    Completed code s (s.beginCommand.endCommand code) ∧ DataKept s (s.beginCommand.endCommand code) :=
  ⟨res_completed s s.res code, rfl, rfl, rfl, fun _ _ => rfl⟩

/-- The fault gate of rule R230 stops every word but that of SRESET, whether a command or not. -/
theorem issue_gate {w : Word} {s : State} (hf : s.status.fault = true) (hw : w ≠ sresetWord) :
    issue w s = .next (s.beginCommand.endCommand rcFaulted) := by
  unfold issue
  cases hd : decode w with
  | ok i =>
    obtain ⟨body, hbody⟩ := exec_eq_runCommand i
    exact (hbody s).trans (runCommand_gate i body s hf (encode_of_decode hd ▸ hw))
  | error e => exact if_pos ⟨hf, hw⟩

theorem exec_nop (s : State) : exec .nop s =
    .next (s.beginCommand.endCommand (if s.status.fault = true then rcFaulted else rcOk)) := by
  change runCommand .nop nopBody s = _
  cases hf : s.status.fault with
  | true => exact runCommand_gate .nop nopBody s hf (by decide)
  | false => exact State.Admits.ends ⟨hf, rfl, rfl⟩ rfl

/-- No word but NOP's has OPC 0 and decodes: NOP's format defines no bit (rules R87, R231). -/
theorem eq_zero_of_decode {w : Word} {i : Instr} (hlt : w.toNat < 2 ^ 24) (hd : decode w = .ok i) : w = 0#32 := by
  have hopc : (opcField w).toNat = 0 := (opcField_toNat w).trans (Nat.div_eq_of_lt hlt)
  obtain ⟨hcandidate, -⟩ := (decode_eq_ok_iff w i).1 hd
  rw [candidate, hopc] at hcandidate
  obtain rfl : Instr.nop = i := Option.some.inj hcandidate
  exact (encode_of_decode hd).symm

/-! ### INIT refuses -/

/-- A condition of rule R232 fails. -/
theorem initBody_invalid {t : State} (h : ¬ t.ConfigLegal) : initBody t = .ret rcConfigInvalid t :=
  if_pos (Bool.eq_false_iff.2 (mt (configValid_iff t).1 h))

/-- Every condition of rule R232 holds, one of rule R233 fails. -/
theorem initBody_tooLarge {t : State} (hc : t.ConfigLegal) (hk : ¬ t.CapacityLegal) :
    initBody t = .ret rcAllocationFailure t := by
  have hvalid : ¬ t.configValid = false := ne_false_of_eq_true ((configValid_iff t).2 hc)
  have hcapacity : t.capacityOk = false := Bool.eq_false_iff.2 (mt (capacityOk_iff t).1 hk)
  rw [initBody, if_neg hvalid, if_pos hcapacity]

/-- The checks read CFG, the sizes and the parameters, which the beginning of a command leaves alone. -/
theorem beginCommand_configLegal (s : State) : s.beginCommand.ConfigLegal ↔ s.ConfigLegal :=
  (configValid_iff s.beginCommand).symm.trans (configValid_iff s)

theorem beginCommand_capacityLegal (s : State) : s.beginCommand.CapacityLegal ↔ s.CapacityLegal :=
  (capacityOk_iff s.beginCommand).symm.trans (capacityOk_iff s)

end Sys2Proof.Machine
end

section
/-! SUPPORT. The statements about the fault gate, NOP, and an INIT that refuses. -/

namespace Sys2Proof.Scope

open Machine

/-- Settles O7: the write starts dispatch (`step_issue`), which the fault gate ends (`issue_gate`). -/
theorem faultGateBlocks : Obligations.FaultGateBlocks := by
  intro s u addr w hn hsel hoff hb hf hw
  have hfu : u.status.fault = true := by rw [hn.same.2, hf]
  exact ⟨_, (step_issue hn hsel hoff hb).trans (issue_gate hfu hw), endCommand_beginCommand_kept u rcFaulted⟩

/-- Settles O14: `exec_nop`; the zero word is NOP's, the only one with OPC 0 that decodes (`eq_zero_of_decode`). -/
theorem nopCompletes : Obligations.NopCompletes := by
  refine ⟨fun s => ?_, decode_encode (i := .nop) rfl, fun w hlt hne i hd => hne (eq_zero_of_decode hlt hd)⟩
  exact ⟨_, exec_nop s, (endCommand_beginCommand_kept s _).symm⟩

/-- Settles O55: INIT checks rule R232 (`initBody_invalid`) before rule R233 (`initBody_tooLarge`). -/
theorem initRefuses : Obligations.InitRefuses := by
  intro s hf hu
  have hrun : s.Admits .init := ⟨hf, rfl, decide_eq_true hu⟩
  rw [← beginCommand_configLegal, ← beginCommand_capacityLegal]
  exact ⟨fun hc => hrun.returns (initBody_invalid hc), fun hc hk => hrun.returns (initBody_tooLarge hc hk)⟩

end Sys2Proof.Scope
end

section
/-! SUPPORT. The stream commands in ENDED: each command's own rule returns at once, before it pulls a frame (rules R250,
R251 c). -/

namespace Sys2Proof.Machine

/-- What a stream command returns in ENDED depends on EOS alone, which beginning a command leaves alone. -/
theorem endedCode_beginCommand (s : State) :
    endedCode s.beginCommand = if s.status.eos = true then 0xFFFFFFFF#32 else 0xFFFFFFFB#32 := rfl

section
variable {t : State} (he : t.status.session = .ended)
include he

theorem rdSampleBody_ended : rdSampleBody t = .ret (endedCode t) t := if_pos he

/-- The test for a mono stream comes first (rule R147). -/
theorem rdCsampleBody_ended (hst : t.cfg.stereo = true) : rdCsampleBody t = .ret (endedCode t) t := by
  rw [rdCsampleBody, if_neg (by simp [hst]), if_pos he]

theorem demodStepBody_ended : demodStepBody t = .ret (endedCode t) t := if_pos he

/-- The test of the threshold comes first (rule R202). -/
theorem findHdrBody_ended (hthres : badThreshold t.arg0F = false) : findHdrBody t = .ret (endedCode t) t := by
  rw [findHdrBody, if_neg (by simp [hthres]), if_pos he]

theorem rdHbitBody_ended (flags : Nibble) : rdHbitBody flags t = .ret (endedCode t) t := if_pos he

theorem rdSbitBody_ended (flags : Nibble) : rdSbitBody flags t = .ret (endedCode t) t := if_pos he

end

end Sys2Proof.Machine
end

section
/-! SUPPORT. The statement about the stream commands in ENDED. -/

namespace Sys2Proof.Scope

open Machine

/-- Settles O26: dispatch lets each command run its own rule, which returns `endedCode` and the state it was given
(`State.Admits.returns`). -/
theorem endedCommandsReturn : Obligations.EndedCommandsReturn := by
  intro i s hf he hi
  have hopen : s.status.session ≠ .uninit := by simp [he]
  have hended : s.beginCommand.status.session = .ended := he
  have hret : ∃ t, exec i s = .next t ∧ Completed (endedCode s.beginCommand) s t ∧ DataKept s t := by
    rcases hi with rfl | ⟨rfl, hst⟩ | rfl | ⟨rfl, hnan, hneg⟩ | ⟨flags, rfl⟩ | ⟨flags, rfl⟩
    · exact State.Admits.returns ⟨hf, rfl, decide_eq_true hopen⟩ (rdSampleBody_ended hended)
    · exact State.Admits.returns ⟨hf, rfl, decide_eq_true hopen⟩ (rdCsampleBody_ended hended hst)
    · exact State.Admits.returns ⟨hf, rfl, decide_eq_true hopen⟩ (demodStepBody_ended hended)
    · have hthres : badThreshold s.beginCommand.arg0F = false := Bool.or_eq_false_iff.2 ⟨hnan, hneg⟩
      exact State.Admits.returns ⟨hf, rfl, decide_eq_true hopen⟩ (findHdrBody_ended hended hthres)
    · exact State.Admits.returns ⟨hf, rfl, decide_eq_true hopen⟩ (rdHbitBody_ended hended flags)
    · exact State.Admits.returns ⟨hf, rfl, decide_eq_true hopen⟩ (rdSbitBody_ended hended flags)
  rw [endedCode_beginCommand] at hret
  obtain ⟨t, hexec, hcompleted, hkept⟩ := hret
  exact ⟨t, hexec, hkept, hcompleted⟩

end Sys2Proof.Scope
end
